-- ==== Sys2Proof/Word.lean ====
section
/-! DEFINITION. The value types of the block: bytes, 32-bit words and 128-bit blocks
(`00_scope.md` R10, R12). Everything the spec adds, shifts or masks is one of these; lengths, offsets and
indexes are natural numbers. -/

namespace Sys2Proof

/-- A byte, 8 bits (`00_scope.md` R11). -/
abbrev Byte := BitVec 8

/-- A word of the cipher datapath and of the host port, 32 bits (`00_scope.md` R9). -/
abbrev Word := BitVec 32

/-- A Block, "exactly 16 bytes", held as the integer `be128` of its bytes (`00_scope.md` R12,
`44_ghash.md` R190): the first byte is the most significant. DESIGN CHOICE (safe), log entry 10. -/
abbrev Block := BitVec 128

end Sys2Proof
end

