-- ==== Sys2Proof/Syntax.lean ====
section
/-! DEFINITION. The commands of the block, one constructor per row of `spec/opcode_table.json`
(`30_encoding.md` R92). A command plays the part of an instruction (`00_scope.md` R17). -/

namespace Sys2Proof

/-- The nine commands (`30_encoding.md` R92) with the argument that two of them carry (R91). All other
operands are byte ranges named by the operand registers, which are state. -/
inductive Instr where
  /-- KEYEXP (R142). `tt` is `ARG[0]`, the round-transform strategy captured into `TSEL`. -/
  | keyexp (tt : Bool)
  /-- ECBENC (R166) -/
  | ecbenc
  /-- ECBDEC (R167) -/
  | ecbdec
  /-- GFMUL (R200) -/
  | gfmul
  /-- GHASH (R201) -/
  | ghash
  /-- CTR (R224) -/
  | ctr
  /-- GCMINIT (R246). `tl` is `ARG`, the requested tag length, 0 for the default 16. -/
  | gcminit (tl : BitVec 8)
  /-- GCMENC (R247) -/
  | gcmenc
  /-- GCMDEC (R248) -/
  | gcmdec
  deriving DecidableEq, Repr

end Sys2Proof
end

