-- ==== Sys2Proof/WellFormed.lean ====
section
/-! DEFINITION. Which commands have a legal command word (`30_encoding.md` R91, R93). -/

namespace Sys2Proof

/-- A command is well formed when its argument is legal: `TL = 17..255` of GCMINIT "is illegal"
(`30_encoding.md` R91). Every other command has only legal arguments. -/
def Instr.wellFormed : Instr → Bool
  | .keyexp _ => true
  | .ecbenc => true
  | .ecbdec => true
  | .gfmul => true
  | .ghash => true
  | .ctr => true
  | .gcminit tl => decide (tl.toNat ≤ 16)
  | .gcmenc => true
  | .gcmdec => true

end Sys2Proof
end

