-- ==== Sys2Proof/Decode.lean ====
section
/-! DEFINITION. The command word `CW` (`30_encoding.md` R90 to R93): decoding, total on every 32-bit word and
rejecting by name, and after it the encoder. -/

namespace Sys2Proof

/-! ## Fields of the command word (R90) -/

/-- `OPC`, bits 7:0. -/
def fieldOpc (w : Word) : BitVec 8 := w.extractLsb' 0 8

/-- `ARG`, bits 15:8. -/
def fieldArg (w : Word) : BitVec 8 := w.extractLsb' 8 8

/-- `RSV`, bits 31:16. -/
def fieldRsv (w : Word) : BitVec 16 := w.extractLsb' 16 16

/-! ## Decoding -/

/-- Why a word is not one of the 26 legal ones (R93). Each of them completes with `IllegalCommand`. -/
inductive Reject where
  /-- `RSV != 0` -/
  | reservedNonzero
  /-- `OPC` is not one of 0x01 to 0x09 -/
  | unknownOpcode
  /-- `ARG` is not legal for that `OPC` (R91) -/
  | illegalArgument
  deriving DecidableEq, Repr

/-- A command without argument: "`ARG` must be 0x00" (R91). -/
def decodeNoArg (w : Word) (i : Instr) : Except Reject Instr :=
  if fieldArg w = 0x00#8 then .ok i else .error .illegalArgument

/-- KEYEXP: "`ARG[0]` is `TT` ...; `ARG[7:1]` must be 0" (R91). -/
def decodeKeyexp (w : Word) : Except Reject Instr :=
  if (fieldArg w).toNat ≤ 1 then .ok (.keyexp ((fieldArg w).getLsbD 0)) else .error .illegalArgument

/-- GCMINIT: `ARG` is `TL`, 0 to 16; "`TL = 17..255` is illegal" (R91). -/
def decodeGcminit (w : Word) : Except Reject Instr :=
  if (fieldArg w).toNat ≤ 16 then .ok (.gcminit (fieldArg w)) else .error .illegalArgument

/-- The command a word stands for (R92), or why it stands for none (R93). -/
def decodeWord (w : Word) : Except Reject Instr :=
  if fieldRsv w ≠ 0x0000#16 then .error .reservedNonzero
  else if fieldOpc w = 0x01#8 then decodeKeyexp w
  else if fieldOpc w = 0x02#8 then decodeNoArg w .ecbenc
  else if fieldOpc w = 0x03#8 then decodeNoArg w .ecbdec
  else if fieldOpc w = 0x04#8 then decodeNoArg w .gfmul
  else if fieldOpc w = 0x05#8 then decodeNoArg w .ghash
  else if fieldOpc w = 0x06#8 then decodeNoArg w .ctr
  else if fieldOpc w = 0x07#8 then decodeGcminit w
  else if fieldOpc w = 0x08#8 then decodeNoArg w .gcmenc
  else if fieldOpc w = 0x09#8 then decodeNoArg w .gcmdec
  else .error .unknownOpcode

/-- The word that `nbits` bits of value `w` make, every bit above them 0. A command is exactly one 32-bit
word (R95), held in `CMDLATCH` as a whole value, so there is no byte order to lay out. -/
def tableWord (nbits w : Nat) : Word := BitVec.ofNat 32 (w % 2 ^ nbits)

/-- What the decoder reads from an instruction whose bits are `w`, numbered as `spec/opcode_table.json`
numbers them. -/
def decodeTableWord (nbits w : Nat) : Option Instr := (decodeWord (tableWord nbits w)).toOption

/-! ## Encoding -/

/-- A word with `RSV = 0` (R90). -/
def commandWord (arg opc : BitVec 8) : Word := 0x0000#16 ++ arg ++ opc

/-- `OPC` of a command (R92). -/
def opcode : Instr → BitVec 8
  | .keyexp _ => 0x01#8
  | .ecbenc => 0x02#8
  | .ecbdec => 0x03#8
  | .gfmul => 0x04#8
  | .ghash => 0x05#8
  | .ctr => 0x06#8
  | .gcminit _ => 0x07#8
  | .gcmenc => 0x08#8
  | .gcmdec => 0x09#8

/-- `ARG` of a command (R91). -/
def argument : Instr → BitVec 8
  | .keyexp tt => if tt then 0x01#8 else 0x00#8
  | .ecbenc => 0x00#8
  | .ecbdec => 0x00#8
  | .gfmul => 0x00#8
  | .ghash => 0x00#8
  | .ctr => 0x00#8
  | .gcminit tl => tl
  | .gcmenc => 0x00#8
  | .gcmdec => 0x00#8

/-- The command word of a command (R90 to R92). -/
def encode (i : Instr) : Word := commandWord (argument i) (opcode i)

end Sys2Proof
end

