-- ==== Sys2Proof/Config.lean ====
section
/-! DEFINITION. What an implementation fixes (`00_scope.md` R9) and the free values of the model. -/

namespace Sys2Proof

/-- The parameters of the block that the spec leaves open: `BUF_BYTES`, the size of the operand buffer
(`00_scope.md` R9, D3, U3). A machine carries its parameter as plain data in State; no step changes it.
Log entry 2. -/
structure Config where
  /-- `BUF_BYTES` -/
  bufBytes : Nat
  deriving DecidableEq, Repr

/-- The bounds the spec puts on the parameter: "a multiple of 4 with 64 <= `BUF_BYTES` <= 2^31". -/
abbrev Config.Legal (c : Config) : Prop :=
  c.bufBytes % 4 = 0 ∧ 64 ≤ c.bufBytes ∧ c.bufBytes ≤ 2 ^ 31

/-- The size that the spec's vectors and programs take (`00_scope.md` R9). DESIGN CHOICE for
`State.reset`, log entry 2. -/
def Config.ofVectors : Config := ⟨4096⟩

/-- FREE VALUE. The byte at a buffer offset that nothing has written since power-on: "each byte holds some
value, the same at every read until the byte is written, and no rule says which" (`10_state.md` R43, U1).
It has no body, so nothing can be proved about its values. DESIGN CHOICE (safe), log entry 1. -/
opaque Config.powerOnByte : Nat → Byte

end Sys2Proof
end

