-- ==== Sys2Proof/Machine/State.lean ====
section
/-! DEFINITION. The state of the block as `10_state.md` R20 lists it, the model's own bookkeeping beside it, the
reasons a step can stop, and the state after reset. -/

namespace Sys2Proof.Machine

/-- The cells of the operand buffer that something has written, by buffer offset, strictly rising. An offset
that is not listed holds no value the model knows (`10_state.md` R43). -/
abbrev Memory := List Host.Cell

/-- The error kinds of a command (`60_exceptions.md` R280). -/
inductive ErrorKind where
  /-- key not 16 bytes -/
  | invalidKeyLength
  /-- an operand that must be one block is not 16 bytes -/
  | invalidBlockLength
  /-- supplied tag length differs from the configured length -/
  | invalidTagLength
  /-- computed tag does not match the supplied tag -/
  | authenticationFailure
  /-- the command word is not one of the 26 legal words -/
  | illegalCommand
  /-- `KEYVALID = 0` and the command needs round keys -/
  | noKey
  /-- `SESSVALID = 0` and the command needs `H` or `J0` -/
  | noSession
  /-- a used range is out of range, or a written range overlaps another used range -/
  | badOperand
  deriving DecidableEq, Repr

/-- The six operand registers (`10_state.md` R32). -/
inductive OperReg where
  | aoff
  | alen
  | doff
  | dlen
  | toff
  | tlen
  deriving DecidableEq, Repr

/-- The response of a host transaction (`20_memory.md` R60). -/
inductive Resp where
  /-- `OKAY` -/
  | okay
  /-- `ERROR` -/
  | error
  deriving DecidableEq, Repr

/-- What a host transaction returns (`20_memory.md` R60). -/
inductive PortAnswer where
  /-- `HostWrite32` returns `resp` -/
  | write (resp : Resp)
  /-- `HostRead32` returns `(data, resp)` -/
  | read (data : Word) (resp : Resp)
  deriving DecidableEq, Repr

/-- One move of the outside world, or the Core's turn (`00_scope.md` R8, R15, `70_reset_and_hazards.md` R320).
Log entry 3. -/
inductive PortEvent where
  /-- `HostWrite32(addr, data)` -/
  | write32 (addr data : Word)
  /-- `HostRead32(addr)` -/
  | read32 (addr : Word)
  /-- the reset event (R320, R321); log entry 5 -/
  | reset
  /-- the Core agent's turn: the completion step, when it is enabled (`30_encoding.md` R97) -/
  | coreTurn
  deriving DecidableEq, Repr

/-- The complete state (`10_state.md` R20), field by field, with the parameter and the model's own fields. -/
structure State where
  /-- the parameter `BUF_BYTES`; no step changes it (log entry 2). DESIGN CHOICE -/
  cfg : Config
  /-- `KEYVALID` (R22) -/
  keyValid : Bool
  /-- `TSEL` (R25): the round transform, true for the T-table -/
  tsel : Bool
  /-- `RK[0..31]` (R21) -/
  rk : Vector Word 32
  /-- `SESSVALID` (R27) -/
  sessValid : Bool
  /-- `H` (R26) -/
  h : Block
  /-- `J0` (R26) -/
  j0 : Block
  /-- `TAGLEN` (R26) -/
  tagLen : BitVec 5
  /-- `BUSY` (R31) -/
  busy : Bool
  /-- `DONE` (R31) -/
  done : Bool
  /-- `ERR` (R31) -/
  err : Bool
  /-- `ERRCODE` (R31) -/
  errCode : BitVec 8
  /-- `CMDLATCH` (R20, R30) -/
  cmdLatch : Word
  /-- `AOFF` (R32) -/
  aoff : Word
  /-- `ALEN` (R32) -/
  alen : Word
  /-- `DOFF` (R32) -/
  doff : Word
  /-- `DLEN` (R32) -/
  dlen : Word
  /-- `TOFF` (R32) -/
  toff : Word
  /-- `TLEN` (R32) -/
  tlen : Word
  /-- `BUF` (R20, R43; `20_memory.md` R62) -/
  buf : Memory
  /-- MODEL'S OWN: the moves still to come, first one first (log entry 3). DESIGN CHOICE; unsafe only for a
  claim that takes its order for a promise of the hardware -/
  pending : List PortEvent
  /-- MODEL'S OWN: what the latest host transaction returned (log entry 6). DESIGN CHOICE (safe) -/
  answer : Option PortAnswer
  /-- MODEL'S OWN: a host transaction of this run was answered `ERROR` (`93_implementation_defined.md` U7;
  log entry 7). DESIGN CHOICE (safe) -/
  refusedAccess : Bool
  deriving DecidableEq, Repr

/-- Why a step stops with a fault. -/
inductive Fault where
  /-- Raised by `MemRead` and `MemWrite` (Ops.lean) on a range that does not lie inside the buffer, for which
  `20_memory.md` R72 and R73 define nothing. Every command checks its ranges before it reads or writes (R74),
  so no command raises it. SAFE: the model stops where the spec says nothing. DESIGN CHOICE, log
  entry 9. -/
  | outsideBuffer (off len : Nat)
  deriving DecidableEq, Repr

/-- Why a step is refused. -/
inductive Refusal where
  /-- Raised by an arm of `exec` whose instruction has no meaning yet; no arm does. SAFE. -/
  | notModelled (mnemonic : String)
  deriving DecidableEq, Repr

/-- The state after reset of a block whose buffer size is `cfg` (`10_state.md` R42): no instance, no session,
no command; the buffer holds bytes that no rule gives (R43), so no cell is listed. -/
def State.powerOn (cfg : Config) : State where
  cfg := cfg
  keyValid := false
  tsel := false
  rk := Vector.replicate 32 0x00000000#32
  sessValid := false
  h := 0#128
  j0 := 0#128
  tagLen := 16#5
  busy := false
  done := false
  err := false
  errCode := 0x00#8
  cmdLatch := 0x00000000#32
  aoff := 0x00000000#32
  alen := 0x00000000#32
  doff := 0x00000000#32
  dlen := 0x00000000#32
  toff := 0x00000000#32
  tlen := 0x00000000#32
  buf := []
  pending := []
  answer := none
  refusedAccess := false

/-- The machine right after reset, with the buffer size of the spec's vectors (log entry 2). DESIGN CHOICE,
unsafe for claims that rest on the size; no obligation does. -/
def State.reset : State := State.powerOn Config.ofVectors

end Sys2Proof.Machine
end

