-- ==== Sys2Proof/Machine/Flags.lean ====
section
/-! DEFINITION. The flags and the `STATUS` register that shows them (`10_state.md` R31, R41), and the error codes
(`60_exceptions.md` R280). -/

namespace Sys2Proof.Machine

/-- The code of an error kind, the value of `ERRCODE` after a command ends with it (R280). -/
def errorCode : ErrorKind → BitVec 8
  | .invalidKeyLength => 0x01#8
  | .invalidBlockLength => 0x02#8
  | .invalidTagLength => 0x03#8
  | .authenticationFailure => 0x04#8
  | .illegalCommand => 0x10#8
  | .noKey => 0x11#8
  | .noSession => 0x12#8
  | .badOperand => 0x13#8

/-- The value that a read of `STATUS` returns (R31): bits 31:21 reserved, 20:16 `TAGLEN`, 15:8 `ERRCODE`,
7:6 reserved, then `TSEL`, `SESSVALID`, `KEYVALID`, `ERR`, `DONE`, `BUSY` down to bit 0. -/
def statusWord (s : State) : Word :=
  0#11 ++ s.tagLen ++ s.errCode ++ 0#2 ++ BitVec.ofBool s.tsel ++ BitVec.ofBool s.sessValid
    ++ BitVec.ofBool s.keyValid ++ BitVec.ofBool s.err ++ BitVec.ofBool s.done ++ BitVec.ofBool s.busy

/-- The flags at acceptance: `BUSY <- 1; DONE <- 0; ERR <- 0; ERRCODE <- 0x00` (`30_encoding.md` R96). -/
def flagsAccepted (s : State) : State :=
  { s with busy := true, done := false, err := false, errCode := 0x00#8 }

/-- The flags at completion without error: `BUSY <- 0; DONE <- 1` (`30_encoding.md` R97). DEDUCED: nothing
else is written, here and at an error (unsafe only outside the invariant), log entry 8. -/
def flagsDone (s : State) : State := { s with busy := false, done := true }

/-- The flags at completion with an error: `BUSY <- 0; ERR <- 1; ERRCODE <- code` (`30_encoding.md` R97,
`60_exceptions.md` R284). -/
def flagsError (e : ErrorKind) (s : State) : State :=
  { s with busy := false, err := true, errCode := errorCode e }

end Sys2Proof.Machine
end

