-- ==== Sys2Proof/Machine/Bytes.lean ====
section
/-! DEFINITION. Byte sequences, packing and word arithmetic (`00_scope.md` R11 to R13, `20_memory.md` R77): every
multi-byte quantity is big-endian. -/

namespace Sys2Proof.Machine

/-- Byte `j` of a `8*n`-bit value, byte 0 the most significant (R12). -/
def byteOf {w : Nat} (v : BitVec w) (j : Nat) : Byte := v.extractLsb' (w - 8 * (j + 1)) 8

/-- `be128(b)` of a 16-byte sequence (R12): the first byte is the most significant. -/
def be128 (bs : List Byte) : Block :=
  bs.foldl (fun acc b => (acc <<< 8) ||| b.setWidth 128) 0#128

/-- `bytes128(v)` (R12). -/
def bytes128 (v : Block) : List Byte := (List.range 16).map (byteOf v)

/-- `bytes64(v)` (R12). -/
def bytes64 (v : BitVec 64) : List Byte := (List.range 8).map (byteOf v)

/-- `be32(b)` of a 4-byte sequence (R12). -/
def be32 (bs : List Byte) : Word :=
  bs.foldl (fun acc b => (acc <<< 8) ||| b.setWidth 32) 0#32

/-- `bytes32(w)` (R12). -/
def bytes32 (w : Word) : List Byte := (List.range 4).map (byteOf w)

/-- `rotl32(w, n)`, written `w <<< n` in the spec, for `0 < n < 32` (R13). -/
def rotl32 (w : Word) (n : Nat) : Word := (w <<< n) ||| (w >>> (32 - n))

/-- Byte-by-byte exclusive-or; the result has the length of the shorter sequence (R221, R243). -/
def xorBytes (a b : List Byte) : List Byte := List.zipWith (fun x y => x ^^^ y) a b

/-- `0^n`, n zero bytes (R11). -/
def zeroBytes (n : Nat) : List Byte := List.replicate n 0x00#8

/-- Four 32-bit words: the registers `K[0..3]` and `X[0..3]` (`10_state.md` R34). -/
structure Quad where
  x0 : Word
  x1 : Word
  x2 : Word
  x3 : Word
  deriving DecidableEq, Repr

/-- Word `i` of a block, `be32(B[4i..4i+4))` (R12). -/
def blockWords (b : Block) : Quad where
  x0 := b.extractLsb' 96 32
  x1 := b.extractLsb' 64 32
  x2 := b.extractLsb' 32 32
  x3 := b.extractLsb' 0 32

/-- The block `bytes32(w0) ‖ bytes32(w1) ‖ bytes32(w2) ‖ bytes32(w3)` (R12). -/
def blockOfWords (q : Quad) : Block := q.x0 ++ q.x1 ++ q.x2 ++ q.x3

end Sys2Proof.Machine
end

