-- ==== Sys2Proof/Machine/Gf128.lean ====
section
/-! DEFINITION. GF(2^128) in natural bit order and the hash built on it, as pure functions
(`44_ghash.md` R190 to R197; C5 for the bit order, C8 for the padding). -/

namespace Sys2Proof.Machine

/-- `POLY = 2^128 + 0x87`, the polynomial x^128 + x^7 + x^2 + x + 1 as a 129-bit integer (R192). -/
def polynomial : BitVec 129 := 0x100000000000000000000000000000087#129

/-- One iteration of the multiplier, for bit `i` of the scanned multiplicand `x` (R193). -/
def gfStep (x y : Block) (i : Nat) (acc : BitVec 129) : BitVec 129 :=
  let shifted := acc <<< 1
  let added := if x.getLsbD i then shifted ^^^ y.setWidth 129 else shifted
  if added.getLsbD 128 then added ^^^ polynomial else added

/-- The iterations for bits `n-1` down to 0 (R193). -/
def gfIterate (x y : Block) : Nat → BitVec 129 → BitVec 129
  | 0, acc => acc
  | i + 1, acc => gfIterate x y i (gfStep x y i acc)

/-- `GFMUL(x, y)` (R193). -/
def gfmul (x y : Block) : Block := (gfIterate x y 128 0#129).setWidth 128

/-- `Pad16(s)`: the fewest zero bytes that make the length a multiple of 16 (R194). -/
def pad16 (s : List Byte) : List Byte := s ++ zeroBytes ((16 - s.length % 16) % 16)

/-- `LenBlock(aad, ct)`, the bit lengths as two 64-bit big-endian fields (R195). -/
def lenBlock (aad ct : List Byte) : List Byte :=
  bytes64 (BitVec.ofNat 64 (8 * aad.length)) ++ bytes64 (BitVec.ofNat 64 (8 * ct.length))

/-- The first `m` 16-byte blocks of a byte sequence, as field elements (R190, R196). -/
def blocksOf : Nat → List Byte → List Block
  | 0, _ => []
  | m + 1, s => be128 (s.take 16) :: blocksOf m (s.drop 16)

/-- The blocks that are hashed: `Pad16(aad) ‖ Pad16(ct) ‖ LenBlock(aad, ct)` (R196). -/
def hashBlocks (aad ct : List Byte) : List Block :=
  let s := pad16 aad ++ pad16 ct ++ lenBlock aad ct
  blocksOf (s.length / 16) s

/-- `GHASH(h, aad, ct)`: fold the blocks left to right, `Y <- GFMUL(Y ^ B, h)` from `Y = 0` (R197). -/
def ghash (h : Block) (aad ct : List Byte) : Block :=
  (hashBlocks aad ct).foldl (fun y b => gfmul (y ^^^ b) h) 0#128

end Sys2Proof.Machine
end

