-- ==== Sys2Proof/Machine/Sm4.lean ====
section
/-! DEFINITION. The SM4 cipher as pure functions: substitution table, fixed parameters and word transforms
(`40_constants_sbox.md`), key schedule (`41_key_schedule.md` R140), round and block functions
(`42_block_cipher.md` R160 to R164), and the T-table accelerator (`43_ttable.md` R180, R181). -/

namespace Sys2Proof.Machine

/-! ## Constants (R120 to R122) -/

/-- Rows `0_` to `7_` of the substitution table, the first byte of a row the entry of column `_0` (R120). -/
def sboxRowsLow : List Block :=
  [ 0xd690e9fecce13db716b614c228fb2c05#128
  , 0x2b679a762abe04c3aa44132649860699#128
  , 0x9c4250f491ef987a33540b43edcfac62#128
  , 0xe4b31ca9c908e89580df94fa758f3fa6#128
  , 0x4707a7fcf37317ba83593c19e6854fa8#128
  , 0x686b81b27164da8bf8eb0f4b70569d35#128
  , 0x1e240e5e6358d1a225227c3b01217887#128
  , 0xd40046579fd327524c3602e7a0c4c89e#128 ]

/-- Rows `8_` to `f_` of the substitution table (R120). -/
def sboxRowsHigh : List Block :=
  [ 0xeabf8ad240c738b5a3f7f2cef96115a1#128
  , 0xe0ae5da49b341a55ad933230f58cb1e3#128
  , 0x1df6e22e8266ca60c02923ab0d534e6f#128
  , 0xd5db3745defd8e2f03ff6a726d6c5b51#128
  , 0x8d1baf92bbddbc7f11d95c411f105ad8#128
  , 0x0ac13188a5cd7bbd2d74d012b8e5b4b0#128
  , 0x8969974a0c96777e65b9f109c56ec684#128
  , 0x18f07dec3adc4d2079ee5f3ed7cb3948#128 ]

/-- `SBOX[b]`: row = high hex digit of `b`, column = low hex digit (R120). -/
def sbox (b : Byte) : Byte :=
  byteOf ((sboxRowsLow ++ sboxRowsHigh).getD (b.toNat / 16) 0#128) (b.toNat % 16)

/-- `FK[0..3]` (R121). -/
def systemParameters : Quad := ⟨0xA3B1BAC6#32, 0x56AA3350#32, 0x677D9197#32, 0xB27022DC#32⟩

/-- `CK[0..15]` (R122). -/
def roundConstantsLow : List Word :=
  [ 0x00070E15#32, 0x1C232A31#32, 0x383F464D#32, 0x545B6269#32
  , 0x70777E85#32, 0x8C939AA1#32, 0xA8AFB6BD#32, 0xC4CBD2D9#32
  , 0xE0E7EEF5#32, 0xFC030A11#32, 0x181F262D#32, 0x343B4249#32
  , 0x50575E65#32, 0x6C737A81#32, 0x888F969D#32, 0xA4ABB2B9#32 ]

/-- `CK[16..31]` (R122). -/
def roundConstantsHigh : List Word :=
  [ 0xC0C7CED5#32, 0xDCE3EAF1#32, 0xF8FF060D#32, 0x141B2229#32
  , 0x30373E45#32, 0x4C535A61#32, 0x686F767D#32, 0x848B9299#32
  , 0xA0A7AEB5#32, 0xBCC3CAD1#32, 0xD8DFE6ED#32, 0xF4FB0209#32
  , 0x10171E25#32, 0x2C333A41#32, 0x484F565D#32, 0x646B7279#32 ]

/-- `CK[0..31]` (R122). -/
def roundConstants : List Word := roundConstantsLow ++ roundConstantsHigh

/-! ## Word transforms (R123 to R127) -/

/-- `tau(a)`: the substitution of each byte in its own position (R123). -/
def tau (a : Word) : Word :=
  sbox (byteOf a 0) ++ sbox (byteOf a 1) ++ sbox (byteOf a 2) ++ sbox (byteOf a 3)

/-- `L(b)`, the linear diffusion of the cipher rounds, the unrotated term included (R124, C2). -/
def diffuse (b : Word) : Word :=
  b ^^^ rotl32 b 2 ^^^ rotl32 b 10 ^^^ rotl32 b 18 ^^^ rotl32 b 24

/-- `Lp(b)`, the linear diffusion of the key schedule (R125, C1). -/
def diffuseKey (b : Word) : Word := b ^^^ rotl32 b 13 ^^^ rotl32 b 23

/-- `T(a) = L(tau(a))` (R126). -/
def transform (a : Word) : Word := diffuse (tau a)

/-- `Tp(a) = Lp(tau(a))` (R127). -/
def transformKey (a : Word) : Word := diffuseKey (tau a)

/-! ## The T-table (R180, R181) -/

/-- `TT[p][b] = L( SBOX[b] << shift(p) )`, `shift(p)` = 24, 16, 8, 0 for p = 0 .. 3 (R180). -/
def ttable (p : Nat) (b : Byte) : Word := diffuse ((sbox b).setWidth 32 <<< (24 - 8 * p))

/-- `Tacc(a)` (R181). -/
def transformTable (a : Word) : Word :=
  ttable 0 (byteOf a 0) ^^^ ttable 1 (byteOf a 1) ^^^ ttable 2 (byteOf a 2) ^^^ ttable 3 (byteOf a 3)

/-- The round transform that `TSEL` selects: `T` for 0, `Tacc` for 1 (R25, R163). -/
def roundTransform (tsel : Bool) : Word → Word := if tsel then transformTable else transform

/-! ## Key schedule (R140) -/

/-- The iterations of the key schedule over the remaining round constants, with `t` as the transform (`Tp` in
`KeyExpand`): the round keys in generation order. After each iteration the four-word register shifts left by
one (R140). -/
def keyIterate (t : Word → Word) : List Word → Quad → List Word
  | [], _ => []
  | c :: cs, k =>
    let rk := k.x0 ^^^ t (k.x1 ^^^ k.x2 ^^^ k.x3 ^^^ c)
    rk :: keyIterate t cs ⟨k.x1, k.x2, k.x3, rk⟩

/-- The four-word register before the first iteration: the key words XORed with `FK` (R140). -/
def keyStart (key : Block) : Quad :=
  let mk := blockWords key
  ⟨mk.x0 ^^^ systemParameters.x0, mk.x1 ^^^ systemParameters.x1,
   mk.x2 ^^^ systemParameters.x2, mk.x3 ^^^ systemParameters.x3⟩

/-- One round key per round constant (R141 item 2). -/
theorem keyIterate_length (t : Word → Word) (cs : List Word) (k : Quad) :
    (keyIterate t cs k).length = cs.length := by
  induction cs generalizing k with
  | nil => rfl
  | cons c cs ih => simp [keyIterate, ih]

/-- There are 32 round constants (R122). -/
theorem roundConstants_length : roundConstants.length = 32 := rfl

/-- `KeyExpand(key)`: the 32 round keys (R140). -/
@[irreducible] def keyExpand (key : Block) : Vector Word 32 :=
  ⟨(keyIterate transformKey roundConstants (keyStart key)).toArray, by
    simp [keyIterate_length, roundConstants_length]⟩

/-! ## Rounds and blocks (R160 to R164) -/

/-- `Round(X, rk, t)` (R160). -/
def round (t : Word → Word) (x : Quad) (rk : Word) : Quad :=
  ⟨x.x1, x.x2, x.x3, x.x0 ^^^ t (x.x1 ^^^ x.x2 ^^^ x.x3 ^^^ rk)⟩

/-- The reverse transform R: the order of the four words is reversed (R161). -/
def reverseWords (x : Quad) : Quad := ⟨x.x3, x.x2, x.x1, x.x0⟩

/-- `Crypt(rks, blk, t)` (R162). -/
def crypt (t : Word → Word) (rks : List Word) (blk : Block) : Block :=
  blockOfWords (reverseWords (rks.foldl (round t) (blockWords blk)))

/-- `Enc(RK, blk)`: the round keys in forward order (R163). -/
def enc (tsel : Bool) (rk : Vector Word 32) (blk : Block) : Block :=
  crypt (roundTransform tsel) rk.toList blk

/-- `Dec(RK, blk)`: the round keys in reverse order (R164). -/
def dec (tsel : Bool) (rk : Vector Word 32) (blk : Block) : Block :=
  crypt (roundTransform tsel) rk.toList.reverse blk

end Sys2Proof.Machine
end

