-- ==== Sys2Proof/Machine/Gcm.lean ====
section
/-! DEFINITION. Counter mode and the GCM construction as pure functions (`45_ctr.md` R220, R221;
`46_gcm.md` R241 to R245; C6 for the first payload counter). -/

namespace Sys2Proof.Machine

/-- `inc32(cb)`: the low 32 bits increment modulo 2^32, the first twelve bytes never change (R220). -/
def inc32 (cb : Block) : Block := cb.extractLsb' 32 96 ++ (cb.extractLsb' 0 32 + 1#32)

/-- `n` iterations of counter mode from counter block `cb`: encrypt the counter, XOR, then increment
(R221). The last chunk uses the matching leading bytes of its keystream block. -/
def ctrIterate (tsel : Bool) (rk : Vector Word 32) : Nat → Block → List Byte → List Byte
  | 0, _, _ => []
  | n + 1, cb, data =>
    xorBytes (data.take 16) (bytes128 (enc tsel rk cb)) ++ ctrIterate tsel rk n (inc32 cb) (data.drop 16)

/-- `CTR(RK, icb, data)`: `ceil(n / 16)` iterations (R221). -/
def ctrMode (tsel : Bool) (rk : Vector Word 32) (icb : Block) (data : List Byte) : List Byte :=
  ctrIterate tsel rk ((data.length + 15) / 16) icb data

/-- `DeriveJ0(h, nonce)`: `nonce ‖ 00 00 00 01` for 12 bytes, else `GHASH(h, empty, nonce)` (R241). -/
def deriveJ0 (h : Block) (nonce : List Byte) : Block :=
  if nonce.length = 12 then be128 (nonce ++ [0x00#8, 0x00#8, 0x00#8, 0x01#8]) else ghash h [] nonce

/-- `Tag(RK, h, j0, aad, ct, n)`: the leading `n` bytes of `GHASH ^ Enc(RK, j0)` (R243, R244). -/
def gcmTag (tsel : Bool) (rk : Vector Word 32) (h j0 : Block) (aad ct : List Byte) (n : Nat) : List Byte :=
  (bytes128 (ghash h aad ct ^^^ enc tsel rk j0)).take n

/-- The OR-accumulator of the tag comparison over two sequences of one length (R245). -/
def tagDiff : List Byte → List Byte → Byte → Byte
  | x :: a, y :: b, diff => tagDiff a b (diff ||| (x ^^^ y))
  | _, _, diff => diff

/-- `TagEqual(a, b, n)`: every byte is visited, no early exit (R245). -/
def tagEqual (a b : List Byte) : Bool := tagDiff a b 0x00#8 == 0x00#8

end Sys2Proof.Machine
end

