-- ==== Sys2Proof/Machine/Memory.lean ====
section
/-! DEFINITION. The operand buffer as a list of cells in canonical form (`20_memory.md` R62, R72, R73): one cell
per written offset, offsets strictly rising. An offset that is not listed reads as the free byte
`Config.powerOnByte` (`10_state.md` R43, log entry 1). -/

namespace Sys2Proof.Machine

/-- The canonical form: offsets strictly rising, so no offset is listed twice. What an unlisted offset
reads as is a value no proof can know, so a listed byte is never known to equal it. -/
abbrev Memory.wf (m : Memory) : Prop := m.Pairwise (fun c d => c.1 < d.1)

/-- The byte written at an offset, if any. -/
def Memory.cell? : Memory → Nat → Option Byte
  | [], _ => none
  | (a, b) :: m, o => if a = o then some b else Memory.cell? m o

/-- `BUF[o]`: the byte written there, or the free byte that stands there since power-on (R43). -/
def Memory.byteAt (m : Memory) (o : Nat) : Byte := (Memory.cell? m o).getD (Config.powerOnByte o)

/-- `BUF[o] <- b`, keeping the canonical form. -/
def Memory.store : Memory → Nat → Byte → Memory
  | [], o, b => [(o, b)]
  | (a, x) :: m, o, b =>
    if o < a then (o, b) :: (a, x) :: m
    else if o = a then (o, b) :: m
    else (a, x) :: Memory.store m o b

/-- `BUF[off] ‖ ... ‖ BUF[off+n-1]` (R14, R72). -/
def Memory.bytes (m : Memory) (off n : Nat) : List Byte :=
  (List.range n).map (fun j => Memory.byteAt m (off + j))

/-- `BUF[off + j] <- s[j]` for `0 <= j < len(s)`, every other byte unchanged (R73). -/
@[irreducible] def Memory.storeBytes : Memory → Nat → List Byte → Memory
  | m, _, [] => m
  | m, off, b :: bs => Memory.storeBytes (Memory.store m off b) (off + 1) bs

end Sys2Proof.Machine
end

