-- ==== Sys2Proof/Machine/Operands.lean ====
section
/-! DEFINITION. Operand forms: the descriptors A, D and T (`10_state.md` R32, `30_encoding.md` R94), the range check
and the overlap check (`20_memory.md` R74, R75), and the tag length of a command word (`30_encoding.md` R91). -/

namespace Sys2Proof.Machine

/-- A byte range of the buffer, `(off, len)`. Sums are taken in unbounded integers (R74). -/
structure Range where
  off : Nat
  len : Nat
  deriving DecidableEq, Repr

/-- "in range when `off + len <= BUF_BYTES`" (R74). -/
abbrev Range.inside (r : Range) (cfg : Config) : Prop := r.off + r.len ≤ cfg.bufBytes

/-- "overlap when `n1 > 0`, `n2 > 0`, `o1 < o2 + n2` and `o2 < o1 + n1`" (R75). -/
abbrev Range.overlaps (r q : Range) : Prop :=
  r.len > 0 ∧ q.len > 0 ∧ r.off < q.off + q.len ∧ q.off < r.off + r.len

/-- The offset `o` is one of the range's bytes. -/
abbrev Range.covers (r : Range) (o : Nat) : Prop := r.off ≤ o ∧ o < r.off + r.len

/-- A = (`AOFF`, `ALEN`) (R94). -/
def rangeA (s : State) : Range := ⟨s.aoff.toNat, s.alen.toNat⟩

/-- D = (`DOFF`, `DLEN`) (R94). -/
def rangeD (s : State) : Range := ⟨s.doff.toNat, s.dlen.toNat⟩

/-- T = (`TOFF`, `TLEN`) (R94). -/
def rangeT (s : State) : Range := ⟨s.toff.toNat, s.tlen.toNat⟩

/-- T16 = (`TOFF`, 16); `TLEN` is ignored (R94). -/
def rangeT16 (s : State) : Range := ⟨s.toff.toNat, 16⟩

/-- Ttag = (`TOFF`, `TAGLEN`); `TLEN` is ignored (R94). -/
def rangeTag (s : State) : Range := ⟨s.toff.toNat, s.tagLen.toNat⟩

/-- "The configured length is `TAGLEN = (TL == 0) ? 16 : TL`" (R91). -/
def configuredTagLen (tl : BitVec 8) : BitVec 5 := if tl = 0x00#8 then 16#5 else tl.setWidth 5

/-- The value of an operand register (`10_state.md` R32). -/
def operand (s : State) : OperReg → Word
  | .aoff => s.aoff
  | .alen => s.alen
  | .doff => s.doff
  | .dlen => s.dlen
  | .toff => s.toff
  | .tlen => s.tlen

/-- An operand register takes every 32-bit value (`10_state.md` R32). -/
def setOperand (s : State) (r : OperReg) (v : Word) : State :=
  match r with
  | .aoff => { s with aoff := v }
  | .alen => { s with alen := v }
  | .doff => { s with doff := v }
  | .dlen => { s with dlen := v }
  | .toff => { s with toff := v }
  | .tlen => { s with tlen := v }

end Sys2Proof.Machine
end

