-- ==== Sys2Proof/Machine/Ops.lean ====
section
/-! DEFINITION. The named operations that the commands share: acceptance, the two ways to complete
(`30_encoding.md` R96, R97; `60_exceptions.md` R284), the Core's buffer accesses (`20_memory.md` R72, R73), the
cipher under the current instance, and reset (`70_reset_and_hazards.md` R320, R321). -/

namespace Sys2Proof.Machine

/-- The outcome of a command's completion. -/
abbrev Result := Host.Outcome State Fault Refusal

/-! ## Acceptance and completion -/

/-- Acceptance of the command word `w` (R96): `CMDLATCH <- w` and the flags, "nothing else changes". -/
def accept (w : Word) (s : State) : State := { flagsAccepted s with cmdLatch := w }

/-- The command that the accepted word stands for, decoded at completion (R97). -/
def latched (s : State) : Except Reject Instr := decodeWord s.cmdLatch

/-- `raise E`: the command completes with the error and with none of its writes (R284). -/
def raise (e : ErrorKind) (s : State) : Result := .next (flagsError e s)

/-- The command completes without error, its writes being those already made in `s` (R97). -/
def succeed (s : State) : Result := .next (flagsDone s)

/-! ## The Core's accesses to the buffer -/

/-- `MemRead(off, n)` (R72), handing the bytes on; a range outside the buffer is not defined there. DESIGN CHOICE
(safe), log entry 9. -/
def memRead (r : Range) (s : State) (k : List Byte → Result) : Result :=
  if r.inside s.cfg then k (Memory.bytes s.buf r.off r.len) else .fault (.outsideBuffer r.off r.len)

/-- `MemWrite(off, n, s)` (R73), handing the new state on; a range outside the buffer is not defined
there. -/
def memWrite (off : Nat) (bs : List Byte) (s : State) (k : State → Result) : Result :=
  if (Range.mk off bs.length).inside s.cfg then k { s with buf := Memory.storeBytes s.buf off bs }
  else .fault (.outsideBuffer off bs.length)

/-! ## The cipher under the current instance -/

/-- `Enc(RK, b)` with the strategy in `TSEL` (`42_block_cipher.md` R163). -/
def encryptBlock (s : State) (b : Block) : Block := enc s.tsel s.rk b

/-- `Dec(RK, b)` with the strategy in `TSEL` (`42_block_cipher.md` R164). -/
def decryptBlock (s : State) (b : Block) : Block := dec s.tsel s.rk b

/-- `CTR(RK, icb, data)` under the current instance (`45_ctr.md` R221). -/
def ctrBytes (s : State) (icb : Block) (data : List Byte) : List Byte := ctrMode s.tsel s.rk icb data

/-- `Tag(RK, H, J0, aad, ct, TAGLEN)` of the session (`46_gcm.md` R243). -/
def sessionTag (s : State) (aad ct : List Byte) : List Byte :=
  gcmTag s.tsel s.rk s.h s.j0 aad ct s.tagLen.toNat

/-! ## Reset -/

/-- The reset event (R320): every element at its value of `10_state.md` R42, whether or not a command is in
progress (R321); the buffer is not touched (R323). The parameter and the model's own fields stay. DESIGN
CHOICE (safe), log entry 5. -/
def resetEvent (s : State) : State :=
  { State.powerOn s.cfg with
    buf := s.buf, pending := s.pending, answer := s.answer, refusedAccess := s.refusedAccess }

end Sys2Proof.Machine
end

