-- ==== Sys2Proof/Machine/BlockCipher.lean ====
section
/-! DEFINITION. The commands ECBENC and ECBDEC (`42_block_cipher.md` R166, R167). -/

namespace Sys2Proof.Machine

/-- One block at D replaced in place by its image under `f` (R166, R167: the two commands have the same
operands, errors and state written). -/
def blockInPlace (f : Block → Block) (s : State) : Result :=
  if s.keyValid = false then raise .noKey s
  else if s.dlen.toNat ≠ 16 then raise .invalidBlockLength s
  else if ¬ (rangeD s).inside s.cfg then raise .badOperand s
  else memRead (rangeD s) s fun blk => memWrite (rangeD s).off (bytes128 (f (be128 blk))) s succeed

/-- ECBENC (R166): encrypt one block in place. -/
def execEcbenc (s : State) : Result := blockInPlace (encryptBlock s) s

/-- ECBDEC (R167): decrypt one block in place. -/
def execEcbdec (s : State) : Result := blockInPlace (decryptBlock s) s

end Sys2Proof.Machine
end

