-- ==== Sys2Proof/Machine/CounterMode.lean ====
section
/-! DEFINITION. The command CTR (`45_ctr.md` R224). -/

namespace Sys2Proof.Machine

/-- CTR (R224): XOR the keystream that starts at the counter block at A into the data at D, in place. The
counter block in the buffer is not incremented. -/
def execCtr (s : State) : Result :=
  if s.keyValid = false then raise .noKey s
  else if s.alen.toNat ≠ 16 then raise .invalidBlockLength s
  else if ¬ (rangeA s).inside s.cfg ∨ ¬ (rangeD s).inside s.cfg then raise .badOperand s
  else if (rangeD s).overlaps (rangeA s) then raise .badOperand s
  else
    memRead (rangeA s) s fun icb =>
    memRead (rangeD s) s fun data =>
    memWrite (rangeD s).off (ctrBytes s (be128 icb) data) s succeed

end Sys2Proof.Machine
end

