-- ==== Sys2Proof/Machine/GaloisHash.lean ====
section
/-! DEFINITION. The commands GFMUL and GHASH (`44_ghash.md` R200, R201). -/

namespace Sys2Proof.Machine

/-- GFMUL (R200): multiply the blocks at A and D, the product at T16. Needs neither key nor session. -/
def execGfmul (s : State) : Result :=
  if s.alen.toNat ≠ 16 ∨ s.dlen.toNat ≠ 16 then raise .invalidBlockLength s
  else if ¬ (rangeA s).inside s.cfg ∨ ¬ (rangeD s).inside s.cfg ∨ ¬ (rangeT16 s).inside s.cfg then
    raise .badOperand s
  else if (rangeT16 s).overlaps (rangeA s) ∨ (rangeT16 s).overlaps (rangeD s) then raise .badOperand s
  else
    memRead (rangeA s) s fun x =>
    memRead (rangeD s) s fun y =>
    memWrite (rangeT16 s).off (bytes128 (gfmul (be128 x) (be128 y))) s succeed

/-- GHASH (R201): hash authentication data at A and ciphertext at D under the session's `H`, the result at
T16. -/
def execGhash (s : State) : Result :=
  if s.sessValid = false then raise .noSession s
  else if ¬ (rangeA s).inside s.cfg ∨ ¬ (rangeD s).inside s.cfg ∨ ¬ (rangeT16 s).inside s.cfg then
    raise .badOperand s
  else if (rangeT16 s).overlaps (rangeA s) ∨ (rangeT16 s).overlaps (rangeD s) then raise .badOperand s
  else
    memRead (rangeA s) s fun aad =>
    memRead (rangeD s) s fun ct =>
    memWrite (rangeT16 s).off (bytes128 (ghash s.h aad ct)) s succeed

end Sys2Proof.Machine
end

