-- ==== Sys2Proof/Machine/KeySchedule.lean ====
section
/-! DEFINITION. The command KEYEXP (`41_key_schedule.md` R142). -/

namespace Sys2Proof.Machine

/-- The instance that a key and a strategy construct, which ends any session: `SESSVALID <- 0`, `H <- 0^16`,
`J0 <- 0^16`, `TAGLEN <- 16` (R142, `10_state.md` R28). -/
def newInstance (tt : Bool) (key : Block) (s : State) : State :=
  { s with rk := keyExpand key, keyValid := true, tsel := tt,
           sessValid := false, h := 0#128, j0 := 0#128, tagLen := 16#5 }

/-- KEYEXP (R142): construct the cipher instance from the 16-byte key at A. -/
def execKeyexp (tt : Bool) (s : State) : Result :=
  if s.alen.toNat ≠ 16 then raise .invalidKeyLength s
  else if ¬ (rangeA s).inside s.cfg then raise .badOperand s
  else memRead (rangeA s) s fun key => succeed (newInstance tt (be128 key) s)

end Sys2Proof.Machine
end

