-- ==== Sys2Proof/Machine/Orchestrator.lean ====
section
/-! DEFINITION. The commands GCMINIT, GCMENC and GCMDEC (`46_gcm.md` R246 to R248). -/

namespace Sys2Proof.Machine

/-- The session that a nonce and a tag length set up under the current instance (R246): `H <- Enc(RK, 0^16)`,
`J0 <- DeriveJ0(H, nonce)`, `TAGLEN`, `SESSVALID <- 1`. -/
def newSession (tl : BitVec 8) (nonce : List Byte) (s : State) : State :=
  let h := encryptBlock s 0#128
  { s with h := h, j0 := deriveJ0 h nonce, tagLen := configuredTagLen tl, sessValid := true }

/-- GCMINIT (R246): set up a session from the nonce at A. The first check is that of the command word, which
the decoder has already made for every word it accepts; it concerns ill-formed terms only. DEDUCED (safe), log
entry 11. -/
def execGcminit (tl : BitVec 8) (s : State) : Result :=
  if tl.toNat > 16 then raise .illegalCommand s
  else if s.keyValid = false then raise .noKey s
  else if ¬ (rangeA s).inside s.cfg then raise .badOperand s
  else memRead (rangeA s) s fun nonce => succeed (newSession tl nonce s)

/-- GCMENC (R247): the plaintext at D is replaced by its ciphertext, and `TAGLEN` tag bytes are written at
`TOFF`. -/
def execGcmenc (s : State) : Result :=
  if s.sessValid = false then raise .noSession s
  else if ¬ (rangeA s).inside s.cfg ∨ ¬ (rangeD s).inside s.cfg ∨ ¬ (rangeTag s).inside s.cfg then
    raise .badOperand s
  else if (rangeD s).overlaps (rangeA s) ∨ (rangeTag s).overlaps (rangeA s)
      ∨ (rangeTag s).overlaps (rangeD s) then raise .badOperand s
  else
    memRead (rangeA s) s fun aad =>
    memRead (rangeD s) s fun pt =>
    memWrite (rangeD s).off (ctrBytes s s.j0 pt) s fun s1 =>
    memWrite (rangeTag s).off (sessionTag s aad (ctrBytes s s.j0 pt)) s1 succeed

/-- GCMDEC (R248): the tag at T is verified over the ciphertext at D, and only when it matches is the
ciphertext replaced by its plaintext. -/
def execGcmdec (s : State) : Result :=
  if s.sessValid = false then raise .noSession s
  else if s.tlen.toNat ≠ s.tagLen.toNat then raise .invalidTagLength s
  else if ¬ (rangeA s).inside s.cfg ∨ ¬ (rangeD s).inside s.cfg ∨ ¬ (rangeT s).inside s.cfg then
    raise .badOperand s
  else if (rangeD s).overlaps (rangeA s) ∨ (rangeD s).overlaps (rangeT s) then raise .badOperand s
  else
    memRead (rangeA s) s fun aad =>
    memRead (rangeD s) s fun ct =>
    memRead (rangeT s) s fun tag =>
    if tagEqual (sessionTag s aad ct) tag = false then raise .authenticationFailure s
    else memWrite (rangeD s).off (ctrBytes s s.j0 ct) s succeed

end Sys2Proof.Machine
end

