-- ==== Sys2Proof/Machine/Dispatch.lean ====
section
/-! DEFINITION. One arm per command: the completion of a decoded command (`30_encoding.md` R97). -/

namespace Sys2Proof.Machine

def exec (i : Instr) (s : State) : Host.Outcome State Fault Refusal :=
  match i with
  | .keyexp tt => Sys2Proof.Machine.execKeyexp tt s
  | .ecbenc => Sys2Proof.Machine.execEcbenc s
  | .ecbdec => Sys2Proof.Machine.execEcbdec s
  | .gfmul => Sys2Proof.Machine.execGfmul s
  | .ghash => Sys2Proof.Machine.execGhash s
  | .ctr => Sys2Proof.Machine.execCtr s
  | .gcminit tl => Sys2Proof.Machine.execGcminit tl s
  | .gcmenc => Sys2Proof.Machine.execGcmenc s
  | .gcmdec => Sys2Proof.Machine.execGcmdec s

end Sys2Proof.Machine
end

