-- ==== Sys2Proof/Machine/Port.lean ====
section
/-! DEFINITION. The host port (`20_memory.md` R60 to R67): the address map, the two transactions and their
responses. -/

namespace Sys2Proof.Machine

/-- What a port address names (R64). -/
inductive PortTarget where
  /-- `addr[1:0] != 00` (R61) -/
  | misaligned
  /-- `CMD` -/
  | cmd
  /-- `STATUS` -/
  | status
  /-- an operand register -/
  | oper (r : OperReg)
  /-- the buffer word at this offset, a multiple of 4 -/
  | word (off : Nat)
  /-- every other address (`10_state.md` R33) -/
  | unmapped
  deriving DecidableEq, Repr

/-- `BUF_BASE`, the port address of buffer byte 0 (`00_scope.md` R9). -/
def bufBase : Nat := 0x1000

/-- The address map (R64); the buffer window runs from 0x1000 to 0x1000 + `BUF_BYTES` - 4. -/
def portTarget (cfg : Config) (addr : Word) : PortTarget :=
  let a := addr.toNat
  if a % 4 ≠ 0 then .misaligned
  else if a = 0x00 then .cmd
  else if a = 0x04 then .status
  else if a = 0x10 then .oper .aoff
  else if a = 0x14 then .oper .alen
  else if a = 0x18 then .oper .doff
  else if a = 0x1C then .oper .dlen
  else if a = 0x20 then .oper .toff
  else if a = 0x24 then .oper .tlen
  else if bufBase ≤ a ∧ a + 4 ≤ bufBase + cfg.bufBytes then .word (a - bufBase)
  else .unmapped

/-- `HostRead32(addr) -> (data, resp)`: while `BUSY = 1` only `STATUS` answers (R66), otherwise R65. A read has
no effect (R67); one answered `ERROR` returns data 0 (R60). -/
def portRead (s : State) (addr : Word) : Word × Resp :=
  match portTarget s.cfg addr with
  | .status => (statusWord s, .okay)
  | .cmd => if s.busy then (0#32, .error) else (0#32, .okay)
  | .oper r => if s.busy then (0#32, .error) else (operand s r, .okay)
  | .word off => if s.busy then (0#32, .error) else (be32 (Memory.bytes s.buf off 4), .okay)
  | .misaligned => (0#32, .error)
  | .unmapped => (0#32, .error)

/-- `HostWrite32(addr, data) -> resp`: while `BUSY = 1` every write is refused (R66), otherwise R65; the write
to `CMD` starts a command (`30_encoding.md` R96). One answered `ERROR` changes nothing (R60). -/
def portWrite (s : State) (addr data : Word) : State × Resp :=
  if s.busy then (s, .error)
  else
    match portTarget s.cfg addr with
    | .cmd => (accept data s, .okay)
    | .oper r => (setOperand s r data, .okay)
    | .word off => ({ s with buf := Memory.storeBytes s.buf off (bytes32 data) }, .okay)
    | .status => (s, .error)
    | .misaligned => (s, .error)
    | .unmapped => (s, .error)

/-- The model's record of a transaction: what it returned, and whether it was refused (log entries 6, 7). -/
def recordAnswer (a : PortAnswer) (r : Resp) (s : State) : State :=
  { s with answer := some a, refusedAccess := s.refusedAccess || (r == .error) }

/-- One read transaction as a step of the Host (R60). -/
def hostRead32 (addr : Word) (s : State) : State :=
  recordAnswer (.read (portRead s addr).1 (portRead s addr).2) (portRead s addr).2 s

/-- One write transaction as a step of the Host (R60). -/
def hostWrite32 (addr data : Word) (s : State) : State :=
  recordAnswer (.write (portWrite s addr data).2) (portWrite s addr data).2 (portWrite s addr data).1

end Sys2Proof.Machine
end

