-- ==== Sys2Proof/Machine/Step.lean ====
section
/-! DEFINITION. One step of the machine: a move of the outside world or the completion step of the Core
(`00_scope.md` R8, `30_encoding.md` R97). Log entries 3 and 4. -/

namespace Sys2Proof.Machine

/-- The Core's turn (`30_encoding.md` R97): enabled exactly when `BUSY = 1`; it decodes `CMDLATCH` and completes
the command, an illegal word with `IllegalCommand` (R93). -/
def coreStep (s : State) : Host.Outcome State Fault Refusal :=
  if s.busy then
    match latched s with
    | .ok i => exec i s
    | .error _ => raise .illegalCommand s
  else .next s

/-- One step: the first pending move is made; with none pending the Core has the turn. -/
def step (s : State) : Host.Outcome State Fault Refusal :=
  match s.pending with
  | [] => coreStep s
  | .write32 addr data :: rest => .next (hostWrite32 addr data { s with pending := rest })
  | .read32 addr :: rest => .next (hostRead32 addr { s with pending := rest })
  | .reset :: rest => .next (resetEvent { s with pending := rest })
  | .coreTurn :: rest => coreStep { s with pending := rest }

/-- `s` with the command word accepted (`30_encoding.md` R96) and the Core's turn next, so that the next step
completes that command. It stands for the host's write to `CMD` (log entry 4). -/
def State.withFetchWord (s : State) (nbits w : Nat) : State :=
  { accept (tableWord nbits w) s with pending := [] }

end Sys2Proof.Machine
end

