-- ==== Sys2Proof/Machine/Evidence.lean ====
section
/-! DEFINITION. The checks of `40_constants_sbox.md` R129 on the constants (R120 to R122) and on the forms of `L` and
`Lp` (R124, R125): the source's known answer, the losing readings of `90_conflicts.md` C1, the algebraic
construction of `SBOX`, and the generating law of `CK`. No meaning of a command rests on this file. -/

namespace Sys2Proof.Machine

/-! ## Check 1: the known answer -/

/-- Key and plaintext of the source's first vector (R129 item 1, V1). -/
def knownAnswerInput : Block := 0x0123456789abcdeffedcba9876543210#128

/-- The ciphertext that the source states for it (R129 item 1, V1). -/
def knownAnswerOutput : Block := 0x681edf34d206965e86b3e94f536e4246#128

/-- The source's list of rotations without the unrotated term, the losing reading of `L` and `Lp` (C1, C2). -/
def diffuseWithoutTerm (b : Word) : Word := rotl32 b 2 ^^^ rotl32 b 10 ^^^ rotl32 b 18 ^^^ rotl32 b 24

/-- The ciphertext of the known answer's input when `l` is read for `L` and `lp` for `Lp` (C1). -/
def knownAnswerUnder (l lp : Word → Word) : Block :=
  crypt (fun a => l (tau a)) (keyIterate (fun a => lp (tau a)) roundConstants (keyStart knownAnswerInput))
    knownAnswerInput

/-! ## Check 2a: the algebraic construction of the substitution table -/

/-- `v` times x in GF(2^8) modulo x^8 + x^7 + x^6 + x^5 + x^4 + x^2 + 1, 0x1F5 (R129 item 2a). -/
def gf256Double (v : Byte) : Byte := if v.getLsbD 7 then (v <<< 1) ^^^ 0xF5#8 else v <<< 1

/-- The product in GF(2^8) modulo 0x1F5, bit by bit from the highest bit of `x`. -/
def gf256Mul (x y : Byte) : Byte :=
  (List.range 8).foldl (fun acc i => gf256Double acc ^^^ (if x.getLsbD (7 - i) then y else 0x00#8)) 0x00#8

/-- The square in GF(2^8). -/
def gf256Square (x : Byte) : Byte := gf256Mul x x

/-- `inv`, the 254th power as the square of the 127th, which squaring and multiplying by `x` reaches in six
rounds: inversion in GF(2^8), with `inv(0) = 0` (R129 item 2a). -/
def gf256Inv (x : Byte) : Byte := gf256Square ((fun v => gf256Mul x (gf256Square v))^[6] x)

/-- The exclusive-or of the bits of a byte. -/
def parity (x : Byte) : Bool := (List.range 8).foldl (fun acc i => acc ^^ x.getLsbD i) false

/-- `A`, the product with the circulant bit matrix whose first row is 0xA7: bit `i` of the result is the parity
of `x` and that row rotated left by `i`. DEDUCED: R129 does not say which way the rows turn or which bit a row
gives; this is the order with which its equation holds. Safe, log entry 13. -/
def circulant (x : Byte) : Byte :=
  (List.range 8).foldl
    (fun acc i => if parity ((0xA7#8).rotateLeft i &&& x) then acc ||| (0x01#8 <<< i) else acc) 0x00#8

/-- `A(inv(A(x) ^ 0xD3)) ^ 0xD3` (R129 item 2a). -/
def sboxConstruction (x : Byte) : Byte := circulant (gf256Inv (circulant x ^^^ 0xD3#8)) ^^^ 0xD3#8

/-! ## Check 2b: repeated encryption -/

/-- The known answer's input encrypted `n` times in succession under itself as key (R129 item 2b, V1c). The
published value for `n` = 1000000 is `millionFoldOutput`. -/
def knownAnswerRepeated (n : Nat) : Block := (enc false (keyExpand knownAnswerInput))^[n] knownAnswerInput

/-- What the national standard publishes for a million encryptions (R129 item 2b, general knowledge, G7). -/
def millionFoldOutput : Block := 0x595298c7c6fd271f0402f804c33d3f66#128

/-! ## Check 3: the generating law of the round constants -/

/-- Byte `j` of `CK[i]` by its law, `((4*i + j) * 7) mod 256` (R122, R129 item 3). -/
def roundConstantByte (i j : Nat) : Byte := BitVec.ofNat 8 ((4 * i + j) * 7 % 256)

end Sys2Proof.Machine
end

