-- ==== Sys2Proof/Machine/HostNotation.lean ====
section
/-! DEFINITION. The host notation of the spec as lists of port transactions (`30_encoding.md` R100, R101). A program
in that notation is a list of `PortEvent` for the `pending` field. -/

namespace Sys2Proof.Machine

/-- The port address of an operand register (`20_memory.md` R64). -/
def operAddr : OperReg → Word
  | .aoff => 0x0010#32
  | .alen => 0x0014#32
  | .doff => 0x0018#32
  | .dlen => 0x001C#32
  | .toff => 0x0020#32
  | .tlen => 0x0024#32

/-- `wr CMD, w` (R100). -/
def wrCmd (w : Word) : PortEvent := .write32 0x0000#32 w

/-- `rd STATUS` (R100). -/
def rdStatus : PortEvent := .read32 0x0004#32

/-- `wr <operand register>, v` (R100). -/
def wrOper (r : OperReg) (v : Word) : PortEvent := .write32 (operAddr r) v

/-- `wr BUF+<off>, v` (R100). -/
def wrBuf (off : Nat) (v : Word) : PortEvent := .write32 (BitVec.ofNat 32 (bufBase + off)) v

/-- `rd BUF+<off>` (R100). -/
def rdBuf (off : Nat) : PortEvent := .read32 (BitVec.ofNat 32 (bufBase + off))

/-- A pseudo-operation that names a command: `wr CMD` of its word (R101). -/
def wrCommand (i : Instr) : PortEvent := wrCmd (encode i)

/-- `desc A, off, len` (R101). -/
def descA (off len : Word) : List PortEvent := [wrOper .aoff off, wrOper .alen len]

/-- `desc D, off, len` (R101). -/
def descD (off len : Word) : List PortEvent := [wrOper .doff off, wrOper .dlen len]

/-- `desc T, off, len` (R101). -/
def descT (off len : Word) : List PortEvent := [wrOper .toff off, wrOper .tlen len]

/-- The next `n` words of a byte string, padded on the right with zero bytes, written from offset `off`. -/
def ldbufWords : Nat → Nat → List Byte → List PortEvent
  | 0, _, _ => []
  | n + 1, off, bs =>
    wrBuf off (be32 ((bs ++ zeroBytes 4).take 4)) :: ldbufWords n (off + 4) (bs.drop 4)

/-- `ldbuf off, bytes` (R101). -/
def ldbuf (off : Nat) (bs : List Byte) : List PortEvent := ldbufWords ((bs.length + 3) / 4) off bs

/-- `wait` that sees `BUSY = 1` in `polls` reads before the Core's turn falls (R98, R101). -/
def waitPolls (polls : Nat) : List PortEvent :=
  List.replicate polls rdStatus ++ [.coreTurn, rdStatus]

end Sys2Proof.Machine
end

