-- ==== Sys2Proof/Safety.lean ====
section
/-! DEFINITION. What a sound state of the block is, in the terms the claims use. -/

namespace Sys2Proof.Machine

/-- A command word is legal (`30_encoding.md` R91, R93), read off its bits and not off the decoder. -/
def legalWord (w : Word) : Prop :=
  w.extractLsb' 16 16 = 0#16 ∧
    ((w.extractLsb' 0 8 = 0x01#8 ∧ (w.extractLsb' 8 8).toNat ≤ 1) ∨
     (w.extractLsb' 0 8 = 0x07#8 ∧ (w.extractLsb' 8 8).toNat ≤ 16) ∨
     ((w.extractLsb' 0 8).toNat ∈ [2, 3, 4, 5, 6, 8, 9] ∧ w.extractLsb' 8 8 = 0#8))

/-- The invariant of the block, clause by clause with the rule that states it. -/
structure State.Inv (s : State) : Prop where
  /-- the parameter is one the spec allows (`00_scope.md` R9) -/
  cfgLegal : s.cfg.Legal
  /-- the buffer keeps its canonical form -/
  bufSorted : Memory.wf s.buf
  /-- every written byte lies in the buffer (`20_memory.md` R62) -/
  bufInside : ∀ c ∈ s.buf, c.1 < s.cfg.bufBytes
  /-- "At most one of `BUSY`, `DONE`, `ERR` is 1 at any time" (`10_state.md` R31) -/
  busyAlone : s.busy = true → s.done = false ∧ s.err = false
  /-- the same, for `DONE` and `ERR` -/
  doneAlone : s.done = true → s.err = false
  /-- "0x00 whenever `ERR = 0`" (`10_state.md` R31) -/
  noErrorNoCode : s.err = false → s.errCode = 0x00#8
  /-- only the eight codes are produced (`60_exceptions.md` R280) -/
  codeProduced : s.err = true → ∃ e, s.errCode = errorCode e
  /-- `TAGLEN` is 1 to 16 (`10_state.md` R26) -/
  tagLenRange : 1 ≤ s.tagLen.toNat ∧ s.tagLen.toNat ≤ 16
  /-- "While `KEYVALID = 0` the words of `RK` are zero" (`10_state.md` R22) -/
  noKeyNoRoundKeys : s.keyValid = false → s.rk = Vector.replicate 32 0#32
  /-- "`SESSVALID = 1` implies `KEYVALID = 1`" (`10_state.md` R27) -/
  sessionHasKey : s.sessValid = true → s.keyValid = true
  /-- without a session `H`, `J0` and `TAGLEN` are as reset and KEYEXP leave them (`10_state.md` R28, R42) -/
  noSessionCleared : s.sessValid = false → s.h = 0#128 ∧ s.j0 = 0#128 ∧ s.tagLen = 16#5
  /-- in a session `H` is the encryption of the zero block under the round keys now in `RK` (`10_state.md` R26,
  R27) -/
  sessionSubkey : s.sessValid = true → s.h = encryptBlock s 0#128
  /-- a read that is answered `ERROR` returns data 0 (`20_memory.md` R60) -/
  errorReadsZero : ∀ d, s.answer = some (.read d .error) → d = 0#32
  /-- a refused access is marked (U7, log entry 7) -/
  refusalMarked :
    (s.answer = some (.write .error) ∨ s.answer = some (.read 0#32 .error)) → s.refusedAccess = true

/-! ## Operand use and error priority, as the spec tabulates them -/

/-- R286 row 2: the state a command needs ("state needed" of `30_encoding.md` R94), or the error that its
absence gives. -/
def missingState : Instr → State → Option ErrorKind
  | .keyexp _, _ => none
  | .ecbenc, s => if s.keyValid then none else some .noKey
  | .ecbdec, s => if s.keyValid then none else some .noKey
  | .gfmul, _ => none
  | .ghash, s => if s.sessValid then none else some .noSession
  | .ctr, s => if s.keyValid then none else some .noKey
  | .gcminit _, s => if s.keyValid then none else some .noKey
  | .gcmenc, s => if s.sessValid then none else some .noSession
  | .gcmdec, s => if s.sessValid then none else some .noSession

/-- R286 row 3: the operands of fixed length, or the error that a wrong length gives. -/
def wrongLength : Instr → State → Option ErrorKind
  | .keyexp _, s => if s.alen = 16#32 then none else some .invalidKeyLength
  | .ecbenc, s => if s.dlen = 16#32 then none else some .invalidBlockLength
  | .ecbdec, s => if s.dlen = 16#32 then none else some .invalidBlockLength
  | .gfmul, s => if s.alen = 16#32 ∧ s.dlen = 16#32 then none else some .invalidBlockLength
  | .ghash, _ => none
  | .ctr, s => if s.alen = 16#32 then none else some .invalidBlockLength
  | .gcminit _, _ => none
  | .gcmenc, _ => none
  | .gcmdec, s => if s.tlen.toNat = s.tagLen.toNat then none else some .invalidTagLength

/-- The ranges a command uses (`30_encoding.md` R94). -/
def usedRanges : Instr → State → List Range
  | .keyexp _, s => [rangeA s]
  | .ecbenc, s => [rangeD s]
  | .ecbdec, s => [rangeD s]
  | .gfmul, s => [rangeA s, rangeD s, rangeT16 s]
  | .ghash, s => [rangeA s, rangeD s, rangeT16 s]
  | .ctr, s => [rangeA s, rangeD s]
  | .gcminit _, s => [rangeA s]
  | .gcmenc, s => [rangeA s, rangeD s, rangeTag s]
  | .gcmdec, s => [rangeA s, rangeD s, rangeT s]

/-- The buffer ranges a command writes on success (`30_encoding.md` R94). -/
def writtenRanges : Instr → State → List Range
  | .keyexp _, _ => []
  | .ecbenc, s => [rangeD s]
  | .ecbdec, s => [rangeD s]
  | .gfmul, s => [rangeT16 s]
  | .ghash, s => [rangeT16 s]
  | .ctr, s => [rangeD s]
  | .gcminit _, _ => []
  | .gcmenc, s => [rangeD s, rangeTag s]
  | .gcmdec, s => [rangeD s]

/-- The pairs of ranges that must not overlap (`30_encoding.md` R94). -/
def apartRanges : Instr → State → List (Range × Range)
  | .keyexp _, _ => []
  | .ecbenc, _ => []
  | .ecbdec, _ => []
  | .gfmul, s => [(rangeT16 s, rangeA s), (rangeT16 s, rangeD s)]
  | .ghash, s => [(rangeT16 s, rangeA s), (rangeT16 s, rangeD s)]
  | .ctr, s => [(rangeD s, rangeA s)]
  | .gcminit _, _ => []
  | .gcmenc, s => [(rangeD s, rangeA s), (rangeTag s, rangeA s), (rangeTag s, rangeD s)]
  | .gcmdec, s => [(rangeD s, rangeA s), (rangeD s, rangeT s)]

/-- R286 row 6: the bytes supplied as tag differ from the tag of the operands (GCMDEC only). -/
def tagDiffers : Instr → State → Bool
  | .gcmdec, s =>
    decide (sessionTag s (Memory.bytes s.buf s.aoff.toNat s.alen.toNat)
      (Memory.bytes s.buf s.doff.toNat s.dlen.toNat) ≠ Memory.bytes s.buf s.toff.toNat s.tlen.toNat)
  | .keyexp _, _ => false
  | .ecbenc, _ => false
  | .ecbdec, _ => false
  | .gfmul, _ => false
  | .ghash, _ => false
  | .ctr, _ => false
  | .gcminit _, _ => false
  | .gcmenc, _ => false

/-- The rows of the priority table (`60_exceptions.md` R286) in their order: whether the check fails, and the
error it gives. -/
def priorityRows (i : Instr) (s : State) : List (Option ErrorKind) :=
  [ if i.wellFormed then none else some .illegalCommand,
    missingState i s,
    wrongLength i s,
    if ∀ r ∈ usedRanges i s, r.inside s.cfg then none else some .badOperand,
    if ∀ p ∈ apartRanges i s, ¬ p.1.overlaps p.2 then none else some .badOperand,
    if tagDiffers i s then some .authenticationFailure else none ]

/-- "A command reports one error, the first that applies in this order" (R286). -/
def firstError (i : Instr) (s : State) : Option ErrorKind := (priorityRows i s).findSome? id

/-- Which errors a legal command can end with (`60_exceptions.md` R287). -/
def possibleErrors : Instr → List ErrorKind
  | .keyexp _ => [.invalidKeyLength, .badOperand]
  | .ecbenc => [.noKey, .invalidBlockLength, .badOperand]
  | .ecbdec => [.noKey, .invalidBlockLength, .badOperand]
  | .gfmul => [.invalidBlockLength, .badOperand]
  | .ghash => [.noSession, .badOperand]
  | .ctr => [.noKey, .invalidBlockLength, .badOperand]
  | .gcminit _ => [.noKey, .badOperand]
  | .gcmenc => [.noSession, .badOperand]
  | .gcmdec => [.noSession, .invalidTagLength, .badOperand, .authenticationFailure]

/-- An outcome with a change made to its next state, if it has one. -/
def onNext (f : State → State) : Result → Result
  | .next t => .next (f t)
  | .fault r => .fault r
  | .refused r => .refused r

/-- No block other than zero is annihilated by `h`. It holds of every nonzero `h` if POLY is irreducible, which
the spec marks as general knowledge (`93_implementation_defined.md` G10), so claims that need it assume it. -/
def annihilatesNothing (h : Block) : Prop := ∀ x : Block, gfmul x h = 0#128 → x = 0#128

end Sys2Proof.Machine
end

