-- ==== Sys2Proof/Certificates/Slice0/Obligations.lean ====
section
/-! DEFINITION. The statements for the provers. Each docstring names the rule of `spec/` that the statement
formalises, or the sections it rests on; where a clause rests on a choice of the model it names the log entry. -/

open Sys2Proof Sys2Proof.Machine

/-! ## Encoding and decoding -/

/-- `30_encoding.md` R101: the words that the pseudo-operations write, and some words R93 calls illegal. -/
def Obligations.KnownWordsDecode : Prop :=
  decodeWord 0x00000001#32 = .ok (.keyexp false) ∧ decodeWord 0x00000101#32 = .ok (.keyexp true) ∧
  decodeWord 0x00000002#32 = .ok .ecbenc ∧ decodeWord 0x00000003#32 = .ok .ecbdec ∧
  decodeWord 0x00000004#32 = .ok .gfmul ∧ decodeWord 0x00000005#32 = .ok .ghash ∧
  decodeWord 0x00000006#32 = .ok .ctr ∧ decodeWord 0x00000007#32 = .ok (.gcminit 0#8) ∧
  decodeWord 0x00000C07#32 = .ok (.gcminit 12#8) ∧ decodeWord 0x00001007#32 = .ok (.gcminit 16#8) ∧
  decodeWord 0x00000008#32 = .ok .gcmenc ∧ decodeWord 0x00000009#32 = .ok .gcmdec ∧
  decodeWord 0x00000000#32 = .error .unknownOpcode ∧ decodeWord 0x00000201#32 = .error .illegalArgument ∧
  decodeWord 0x00010001#32 = .error .reservedNonzero ∧ decodeWord 0x00001107#32 = .error .illegalArgument

/-- `30_encoding.md` R90 to R92: decoding the word of a well-formed command gives it back, at every value of
its argument. -/
def Obligations.DecodeInvertsEncode : Prop :=
  ∀ i : Instr, i.wellFormed = true → decodeWord (encode i) = .ok i

/-- `30_encoding.md` R90 to R93: every decoded word is the word of the command it decodes to, which is
well formed; so no two words decode to one command. -/
def Obligations.EncodeInvertsDecode : Prop :=
  ∀ (w : Word) (i : Instr), decodeWord w = .ok i → encode i = w ∧ i.wellFormed = true

/-- `30_encoding.md` R93: which words are legal, that they are 26, and that every other word is accepted and
completes with `IllegalCommand`, changing nothing else. -/
def Obligations.IllegalWordsCompleteWithIllegalCommand : Prop :=
  (∀ w : Word, legalWord w ↔ ∃ i, decodeWord w = .ok i) ∧
  (∃ ws : List Word, ws.Nodup ∧ ws.length = 26 ∧ ∀ w, w ∈ ws ↔ legalWord w) ∧
  ∀ (s : State) (w : Word), s.busy = false → ¬ legalWord w →
    portWrite s 0x0000#32 w = (accept w s, .okay) ∧
    coreStep (accept w s) =
      .next { accept w s with busy := false, err := true, errCode := 0x10#8 }

/-! ## Steps, acceptance and completion -/

/-- `30_encoding.md` R97: the Core's turn decodes `CMDLATCH` and runs the command. Around `exec` the step only
takes the Core's turn off the list of pending moves (log entry 3). -/
def Obligations.StepRunsTheDecodedCommand : Prop :=
  ∀ (s : State) (i : Instr), s.busy = true → latched s = .ok i →
    (s.pending = [] → step s = exec i s) ∧
    (∀ rest, s.pending = .coreTurn :: rest → step s = exec i { s with pending := rest })

/-- The word of a well-formed command, accepted, is what the very next step completes (log entry 4). -/
def Obligations.AcceptedWordIsRunNext : Prop :=
  ∀ (s : State) (i : Instr), i.wellFormed = true →
    step (s.withFetchWord 32 (encode i).toNat) = exec i (s.withFetchWord 32 (encode i).toNat)

/-- `30_encoding.md` R96: acceptance, and its refusal while a command is in progress. -/
def Obligations.CommandWriteIsAcceptedWhenIdle : Prop :=
  ∀ (s : State) (w : Word),
    portWrite s 0x0000#32 w =
      if s.busy = true then (s, .error)
      else ({ s with cmdLatch := w, busy := true, done := false, err := false, errCode := 0x00#8 }, .okay)

/-- `30_encoding.md` R97: the completion step is enabled exactly when `BUSY = 1`, and every completion is either
success or one error with no write of the command; "there is no third outcome". -/
def Obligations.EveryCommandCompletes : Prop :=
  ∀ s : State,
    (s.busy = false → coreStep s = .next s) ∧
    (s.busy = true → ∃ t, coreStep s = .next t ∧ t.busy = false ∧
      ((t.done = true ∧ t.err = s.err ∧ t.errCode = s.errCode) ∨
       ∃ e, t = { s with busy := false, err := true, errCode := errorCode e }))

/-- `30_encoding.md` R97, R93: no step of the machine stops, from any state; in particular no command reads or
writes a byte outside the buffer (`20_memory.md` R72 to R74), which would be a fault (log entry 9). -/
def Obligations.NoStepStops : Prop :=
  ∀ s : State, ∃ t, step s = .next t

/-- `30_encoding.md` R98 as the model renders it (log entry 3: the Core moves when no other move is pending):
a machine with a command in progress reaches `BUSY = 0` within one step more than it has pending moves. -/
def Obligations.BusyMachineBecomesIdle : Prop :=
  ∀ s : State, s.busy = true →
    ∃ (k : Nat) (t : State), k ≤ s.pending.length + 1 ∧
      Host.Core.run Sys2Proof.core k s = .next t ∧ t.busy = false

/-! ## The host port -/

/-- `20_memory.md` R66: while `BUSY = 1` only a read of `STATUS` succeeds; every other transaction is answered
`ERROR`, a read with data 0, and changes nothing of the block. The last two clauses say what such a transaction
leaves in the model's own fields `answer` and `refusedAccess`: the model's choice (DESIGN CHOICE, log entries 6
and 7; `93_implementation_defined.md` U7 asks for the mark). -/
def Obligations.BusyRefusesAllButStatusReads : Prop :=
  ∀ (s : State) (addr data : Word), s.busy = true →
    portRead s 0x0004#32 = (statusWord s, .okay) ∧
    (addr ≠ 0x0004#32 → portRead s addr = (0#32, .error)) ∧
    portWrite s addr data = (s, .error) ∧
    hostWrite32 addr data s = { s with answer := some (.write .error), refusedAccess := true } ∧
    (addr ≠ 0x0004#32 →
      hostRead32 addr s = { s with answer := some (.read 0#32 .error), refusedAccess := true })

/-- `10_state.md` R31: the fields of the word that a read of `STATUS` returns at any time, that a write to it
is refused, and that a sound state shows at most one of `BUSY`, `DONE`, `ERR`. -/
def Obligations.StatusShowsTheFlags : Prop :=
  ∀ (s : State) (d : Word),
    portRead s 0x0004#32 = (statusWord s, .okay) ∧ portWrite s 0x0004#32 d = (s, .error) ∧
    (statusWord s).getLsbD 0 = s.busy ∧ (statusWord s).getLsbD 1 = s.done ∧
    (statusWord s).getLsbD 2 = s.err ∧ (statusWord s).getLsbD 3 = s.keyValid ∧
    (statusWord s).getLsbD 4 = s.sessValid ∧ (statusWord s).getLsbD 5 = s.tsel ∧
    (statusWord s).extractLsb' 6 2 = 0#2 ∧ (statusWord s).extractLsb' 8 8 = s.errCode ∧
    (statusWord s).extractLsb' 16 5 = s.tagLen ∧ (statusWord s).extractLsb' 21 11 = 0#11 ∧
    (s.Inv → ((statusWord s).extractLsb' 0 3).toNat ∈ [0, 1, 2, 4])

/-- `20_memory.md` R65 over the address map R64: the answer to every aligned access while `BUSY = 0`. The last
clause is R61, for a misaligned one. -/
def Obligations.PortAnswersByAddress : Prop :=
  ∀ (s : State) (d : Word), s.busy = false → s.cfg.Legal →
    (portRead s 0x0000#32 = (0#32, .okay) ∧ portWrite s 0x0000#32 d = (accept d s, .okay)) ∧
    (portRead s 0x0004#32 = (statusWord s, .okay) ∧ portWrite s 0x0004#32 d = (s, .error)) ∧
    (∀ r : OperReg, portRead s (operAddr r) = (operand s r, .okay) ∧
      portWrite s (operAddr r) d = (setOperand s r d, .okay)) ∧
    (∀ k : Nat, 4 * k + 4 ≤ s.cfg.bufBytes →
      portRead s (BitVec.ofNat 32 (0x1000 + 4 * k)) = (be32 (Memory.bytes s.buf (4 * k) 4), .okay) ∧
      portWrite s (BitVec.ofNat 32 (0x1000 + 4 * k)) d =
        ({ s with buf := Memory.storeBytes s.buf (4 * k) (bytes32 d) }, .okay)) ∧
    (∀ addr : Word, addr.toNat % 4 = 0 →
      (addr.toNat = 0x0008 ∨ addr.toNat = 0x000C ∨ (0x0028 ≤ addr.toNat ∧ addr.toNat ≤ 0x0FFC) ∨
        0x1000 + s.cfg.bufBytes ≤ addr.toNat) →
      portRead s addr = (0#32, .error) ∧ portWrite s addr d = (s, .error)) ∧
    (∀ addr : Word, addr.toNat % 4 ≠ 0 →
      portRead s addr = (0#32, .error) ∧ portWrite s addr d = (s, .error))

/-- `10_state.md` R32: an operand register takes any 32-bit value and reads it back unchanged, is 0 after
reset, is not written while busy, and is never written by the core. -/
def Obligations.OperandRegistersHoldWhatTheHostWrote : Prop :=
  (∀ (s : State) (r q : OperReg) (v : Word), s.busy = false →
    (portWrite s (operAddr r) v).2 = .okay ∧
    portRead (portWrite s (operAddr r) v).1 (operAddr q) =
      (if q = r then v else operand s q, .okay)) ∧
  (∀ (s : State) (r : OperReg) (v : Word), s.busy = true → portWrite s (operAddr r) v = (s, .error)) ∧
  (∀ (s : State) (r : OperReg), operand (resetEvent s) r = 0x00000000#32) ∧
  (∀ (s t : State) (r : OperReg), coreStep s = .next t → operand t r = operand s r)

/-- `20_memory.md` R63: the byte at the lowest offset travels in `data[31:24]`, the byte at the highest in
`data[7:0]`; a word written reads back, and no other byte changes. -/
def Obligations.BufferWordsAreBigEndian : Prop :=
  ∀ (s : State) (k : Nat) (d : Word), s.busy = false → s.cfg.Legal → 4 * k + 4 ≤ s.cfg.bufBytes →
    portRead s (BitVec.ofNat 32 (0x1000 + 4 * k)) =
      (Memory.byteAt s.buf (4 * k) ++ Memory.byteAt s.buf (4 * k + 1) ++ Memory.byteAt s.buf (4 * k + 2)
        ++ Memory.byteAt s.buf (4 * k + 3), .okay) ∧
    ∃ t, portWrite s (BitVec.ofNat 32 (0x1000 + 4 * k)) d = (t, .okay) ∧
      t = { s with buf := t.buf } ∧
      Memory.byteAt t.buf (4 * k) = d.extractLsb' 24 8 ∧
      Memory.byteAt t.buf (4 * k + 1) = d.extractLsb' 16 8 ∧
      Memory.byteAt t.buf (4 * k + 2) = d.extractLsb' 8 8 ∧
      Memory.byteAt t.buf (4 * k + 3) = d.extractLsb' 0 8 ∧
      (∀ o, ¬ (4 * k ≤ o ∧ o < 4 * k + 4) → Memory.byteAt t.buf o = Memory.byteAt s.buf o) ∧
      portRead t (BitVec.ofNat 32 (0x1000 + 4 * k)) = (d, .okay)

/-- `20_memory.md` R67: a read changes nothing, so every read answers after it as before it; a write elsewhere than
to `CMD` stores its data in the one operand register or in the four buffer bytes that its address names, and
nothing more, or changes nothing where the address takes no data; and writing it twice is writing it once. What
the steps of the host leave in the model's own record of the answer (`answer`, `refusedAccess`; log entries 6
and 7) is left open here. -/
def Obligations.OnlyCommandWritesHaveEffects : Prop :=
  ∀ (s : State) (addr d : Word),
    (∃ (a : PortAnswer) (f : Bool), hostRead32 addr s = { s with answer := some a, refusedAccess := f }) ∧
    (∀ q : Word, portRead (hostRead32 addr s) q = portRead s q) ∧
    (∃ (a : PortAnswer) (f : Bool),
      hostWrite32 addr d s = { (portWrite s addr d).1 with answer := some a, refusedAccess := f }) ∧
    (s.busy = true → (portWrite s addr d).1 = s) ∧
    (s.busy = false → ∀ r : OperReg, portTarget s.cfg addr = .oper r →
      (portWrite s addr d).1 = setOperand s r d ∧
      (∀ q : OperReg, operand (setOperand s r d) q = if q = r then d else operand s q) ∧
      ∃ a0 a1 d0 d1 t0 t1 : Word, setOperand s r d =
        { s with aoff := a0, alen := a1, doff := d0, dlen := d1, toff := t0, tlen := t1 }) ∧
    (s.busy = false → ∀ off : Nat, portTarget s.cfg addr = .word off →
      ∃ m : Memory, (portWrite s addr d).1 = { s with buf := m } ∧
        m = Memory.storeBytes s.buf off (bytes32 d) ∧ Memory.bytes m off 4 = bytes32 d ∧
        (∀ o, ¬ (off ≤ o ∧ o < off + 4) → Memory.byteAt m o = Memory.byteAt s.buf o)) ∧
    (portTarget s.cfg addr = .status ∨ portTarget s.cfg addr = .misaligned ∨
        portTarget s.cfg addr = .unmapped → (portWrite s addr d).1 = s) ∧
    (portTarget s.cfg addr ≠ .cmd → portWrite (portWrite s addr d).1 addr d = portWrite s addr d)

/-- `10_state.md` R38: the round keys, `H`, `J0` and the accepted command word cannot be read through the
port. -/
def Obligations.SecretsHaveNoAddress : Prop :=
  ∀ (s : State) (addr : Word) (rk : Vector Word 32) (h j0 : Block) (latch : Word),
    portRead { s with rk := rk, h := h, j0 := j0, cmdLatch := latch } addr = portRead s addr

/-- `30_encoding.md` R101, the pseudo-operation `ldbuf`: its transactions, run from an idle machine, put the bytes
into the buffer, zero bytes after them up to a multiple of 4, and nothing elsewhere. -/
def Obligations.LdbufStoresTheBytes : Prop :=
  ∀ (s : State) (off : Nat) (bs : List Byte) (rest : List PortEvent),
    s.busy = false → s.cfg.Legal → off % 4 = 0 → off + (bs.length + 3) / 4 * 4 ≤ s.cfg.bufBytes →
    s.pending = ldbuf off bs ++ rest →
    ∃ t : State, Host.Core.run Sys2Proof.core (ldbuf off bs).length s = .next t ∧
      t = { s with buf := t.buf, pending := rest, answer := t.answer } ∧
      Memory.bytes t.buf off bs.length = bs ∧
      (∀ o, off + bs.length ≤ o → o < off + (bs.length + 3) / 4 * 4 → Memory.byteAt t.buf o = 0x00#8) ∧
      (∀ o, ¬ (off ≤ o ∧ o < off + (bs.length + 3) / 4 * 4) →
        Memory.byteAt t.buf o = Memory.byteAt s.buf o)

/-! ## Reset -/

/-- `70_reset_and_hazards.md` R320, R321: reset puts every element at its value of `10_state.md` R42 in one
step, whether or not a command is in progress, and does not touch the buffer. -/
def Obligations.ResetEventClearsAllButTheBuffer : Prop :=
  ∀ (s : State) (rest : List PortEvent), s.pending = .reset :: rest →
    ∃ t, step s = .next t ∧
      t.keyValid = false ∧ t.tsel = false ∧ t.sessValid = false ∧
      (∀ k : Fin 32, t.rk[k] = 0x00000000#32) ∧ t.h = 0#128 ∧ t.j0 = 0#128 ∧ t.tagLen = 16#5 ∧
      t.busy = false ∧ t.done = false ∧ t.err = false ∧ t.errCode = 0x00#8 ∧ t.cmdLatch = 0x00000000#32 ∧
      (∀ r, operand t r = 0x00000000#32) ∧ statusWord t = 0x00100000#32 ∧
      t.buf = s.buf ∧ t.cfg = s.cfg

/-- `10_state.md` R42: the values the spec gives for the state after reset, for every buffer size. The size
itself, the empty list of moves, the absent answer and the clear mark are the model's (log entries 2, 3, 6, 7)
and are not stated here. -/
def Obligations.PowerOnStateHasTheResetValues : Prop :=
  State.reset = State.powerOn Config.ofVectors ∧
  ∀ cfg : Config,
    (State.powerOn cfg).keyValid = false ∧ (State.powerOn cfg).tsel = false ∧
    (State.powerOn cfg).sessValid = false ∧ (∀ k : Fin 32, (State.powerOn cfg).rk[k] = 0x00000000#32) ∧
    (State.powerOn cfg).h = 0#128 ∧ (State.powerOn cfg).j0 = 0#128 ∧ (State.powerOn cfg).tagLen = 16#5 ∧
    (State.powerOn cfg).busy = false ∧ (State.powerOn cfg).done = false ∧ (State.powerOn cfg).err = false ∧
    (State.powerOn cfg).errCode = 0x00#8 ∧ (State.powerOn cfg).cmdLatch = 0x00000000#32 ∧
    (∀ r, operand (State.powerOn cfg) r = 0x00000000#32) ∧
    portRead (State.powerOn cfg) 0x0004#32 = (0x00100000#32, .okay)

/-- The invariant holds after reset, for every legal buffer size. -/
def Obligations.ResetStateIsSound : Prop :=
  State.reset.Inv ∧ ∀ cfg : Config, cfg.Legal → (State.powerOn cfg).Inv

/-! ## The invariant -/

/-- Every step keeps the invariant `State.Inv`, from every state that meets it: the buffer's canonical form and
bounds, the exclusion of the flags, the legal tag length, the session under the present key, and the cleared
values without a key or a session (`10_state.md` R22, R26 to R28, R31). -/
def Obligations.StepKeepsSoundness : Prop :=
  ∀ s t : State, s.Inv → step s = .next t → t.Inv

/-! ## What each command does when it completes without error -/

/-- `10_state.md` R28 and `41_key_schedule.md` R142: KEYEXP with a 16-byte key inside the buffer constructs the
instance and ends any session. -/
def Obligations.KeyexpConstructsTheInstance : Prop :=
  ∀ (tt : Bool) (s : State), s.alen = 16#32 → s.aoff.toNat + 16 ≤ s.cfg.bufBytes →
    exec (.keyexp tt) s = .next
      { s with
        rk := keyExpand (be128 (Memory.bytes s.buf s.aoff.toNat 16)), keyValid := true, tsel := tt,
        sessValid := false, h := 0#128, j0 := 0#128, tagLen := 16#5, busy := false, done := true }

/-- `42_block_cipher.md` R166: ECBENC replaces the block at D by its encryption. -/
def Obligations.EcbencEncryptsInPlace : Prop :=
  ∀ s : State, s.keyValid = true → s.dlen = 16#32 → s.doff.toNat + 16 ≤ s.cfg.bufBytes →
    ∃ t, exec .ecbenc s = .next t ∧
      Memory.bytes t.buf s.doff.toNat 16 =
        bytes128 (enc s.tsel s.rk (be128 (Memory.bytes s.buf s.doff.toNat 16))) ∧
      (∀ o, ¬ (rangeD s).covers o → Memory.byteAt t.buf o = Memory.byteAt s.buf o) ∧
      t = { s with buf := t.buf, busy := false, done := true }

/-- `42_block_cipher.md` R167: ECBDEC replaces the block at D by its decryption. -/
def Obligations.EcbdecDecryptsInPlace : Prop :=
  ∀ s : State, s.keyValid = true → s.dlen = 16#32 → s.doff.toNat + 16 ≤ s.cfg.bufBytes →
    ∃ t, exec .ecbdec s = .next t ∧
      Memory.bytes t.buf s.doff.toNat 16 =
        bytes128 (dec s.tsel s.rk (be128 (Memory.bytes s.buf s.doff.toNat 16))) ∧
      (∀ o, ¬ (rangeD s).covers o → Memory.byteAt t.buf o = Memory.byteAt s.buf o) ∧
      t = { s with buf := t.buf, busy := false, done := true }

/-- `44_ghash.md` R200: GFMUL writes the product of the blocks at A and D to the 16 bytes at `TOFF`, with no key
and no session. -/
def Obligations.GfmulWritesTheProduct : Prop :=
  ∀ s : State, s.alen = 16#32 → s.dlen = 16#32 →
    (rangeA s).inside s.cfg → (rangeD s).inside s.cfg → (rangeT16 s).inside s.cfg →
    ¬ (rangeT16 s).overlaps (rangeA s) → ¬ (rangeT16 s).overlaps (rangeD s) →
    ∃ t, exec .gfmul s = .next t ∧
      Memory.bytes t.buf s.toff.toNat 16 =
        bytes128 (gfmul (be128 (Memory.bytes s.buf s.aoff.toNat 16))
          (be128 (Memory.bytes s.buf s.doff.toNat 16))) ∧
      (∀ o, ¬ (rangeT16 s).covers o → Memory.byteAt t.buf o = Memory.byteAt s.buf o) ∧
      t = { s with buf := t.buf, busy := false, done := true }

/-- `44_ghash.md` R201: GHASH writes the hash of A and D under the session's `H` to the 16 bytes at `TOFF`. -/
def Obligations.GhashWritesTheHash : Prop :=
  ∀ s : State, s.sessValid = true →
    (rangeA s).inside s.cfg → (rangeD s).inside s.cfg → (rangeT16 s).inside s.cfg →
    ¬ (rangeT16 s).overlaps (rangeA s) → ¬ (rangeT16 s).overlaps (rangeD s) →
    ∃ t, exec .ghash s = .next t ∧
      Memory.bytes t.buf s.toff.toNat 16 =
        bytes128 (ghash s.h (Memory.bytes s.buf s.aoff.toNat s.alen.toNat)
          (Memory.bytes s.buf s.doff.toNat s.dlen.toNat)) ∧
      (∀ o, ¬ (rangeT16 s).covers o → Memory.byteAt t.buf o = Memory.byteAt s.buf o) ∧
      t = { s with buf := t.buf, busy := false, done := true }

/-- `45_ctr.md` R224: CTR replaces the data at D by its XOR with the keystream from the counter block at A,
which is not changed. -/
def Obligations.CtrXorsTheKeystream : Prop :=
  ∀ s : State, s.keyValid = true → s.alen = 16#32 →
    (rangeA s).inside s.cfg → (rangeD s).inside s.cfg → ¬ (rangeD s).overlaps (rangeA s) →
    ∃ t, exec .ctr s = .next t ∧
      Memory.bytes t.buf s.doff.toNat s.dlen.toNat =
        ctrMode s.tsel s.rk (be128 (Memory.bytes s.buf s.aoff.toNat 16))
          (Memory.bytes s.buf s.doff.toNat s.dlen.toNat) ∧
      Memory.bytes t.buf s.aoff.toNat 16 = Memory.bytes s.buf s.aoff.toNat 16 ∧
      (∀ o, ¬ (rangeD s).covers o → Memory.byteAt t.buf o = Memory.byteAt s.buf o) ∧
      t = { s with buf := t.buf, busy := false, done := true }

/-- `46_gcm.md` R246: GCMINIT derives `H` and the initial counter, fixes the tag length (`30_encoding.md` R91) and
opens the session. -/
def Obligations.GcminitSetsUpTheSession : Prop :=
  ∀ (tl : BitVec 8) (s : State), tl.toNat ≤ 16 → s.keyValid = true → (rangeA s).inside s.cfg →
    ∃ t, exec (.gcminit tl) s = .next t ∧
      t = { s with
            h := enc s.tsel s.rk 0#128,
            j0 := deriveJ0 (enc s.tsel s.rk 0#128) (Memory.bytes s.buf s.aoff.toNat s.alen.toNat),
            tagLen := t.tagLen, sessValid := true, busy := false, done := true } ∧
      t.tagLen.toNat = if tl = 0#8 then 16 else tl.toNat

/-- `46_gcm.md` R247: GCMENC replaces the plaintext at D by its ciphertext, whose keystream starts at `J0`
itself, and writes exactly `TAGLEN` bytes of tag over A and the ciphertext at `TOFF`. -/
def Obligations.GcmencEncryptsAndTags : Prop :=
  ∀ s : State, s.sessValid = true → s.tagLen.toNat ≤ 16 →
    (rangeA s).inside s.cfg → (rangeD s).inside s.cfg → (rangeTag s).inside s.cfg →
    ¬ (rangeD s).overlaps (rangeA s) → ¬ (rangeTag s).overlaps (rangeA s) →
    ¬ (rangeTag s).overlaps (rangeD s) →
    ∃ t, exec .gcmenc s = .next t ∧
      Memory.bytes t.buf s.doff.toNat s.dlen.toNat =
        ctrMode s.tsel s.rk s.j0 (Memory.bytes s.buf s.doff.toNat s.dlen.toNat) ∧
      Memory.bytes t.buf s.toff.toNat s.tagLen.toNat =
        gcmTag s.tsel s.rk s.h s.j0 (Memory.bytes s.buf s.aoff.toNat s.alen.toNat)
          (ctrMode s.tsel s.rk s.j0 (Memory.bytes s.buf s.doff.toNat s.dlen.toNat)) s.tagLen.toNat ∧
      (∀ o, ¬ (rangeD s).covers o → ¬ (rangeTag s).covers o →
        Memory.byteAt t.buf o = Memory.byteAt s.buf o) ∧
      t = { s with buf := t.buf, busy := false, done := true }

/-- `46_gcm.md` R248: GCMDEC with the right tag replaces the ciphertext at D by its plaintext. -/
def Obligations.GcmdecVerifiesThenDecrypts : Prop :=
  ∀ s : State, s.sessValid = true → s.tlen.toNat = s.tagLen.toNat →
    (rangeA s).inside s.cfg → (rangeD s).inside s.cfg → (rangeT s).inside s.cfg →
    ¬ (rangeD s).overlaps (rangeA s) → ¬ (rangeD s).overlaps (rangeT s) →
    gcmTag s.tsel s.rk s.h s.j0 (Memory.bytes s.buf s.aoff.toNat s.alen.toNat)
      (Memory.bytes s.buf s.doff.toNat s.dlen.toNat) s.tagLen.toNat =
        Memory.bytes s.buf s.toff.toNat s.tlen.toNat →
    ∃ t, exec .gcmdec s = .next t ∧
      Memory.bytes t.buf s.doff.toNat s.dlen.toNat =
        ctrMode s.tsel s.rk s.j0 (Memory.bytes s.buf s.doff.toNat s.dlen.toNat) ∧
      (∀ o, ¬ (rangeD s).covers o → Memory.byteAt t.buf o = Memory.byteAt s.buf o) ∧
      t = { s with buf := t.buf, busy := false, done := true }

/-! ## Errors -/

/-- `60_exceptions.md` R286: a command reports the first error that applies in the order of the table, and
completes without error when none applies; an illegal word reports `IllegalCommand` before all. -/
def Obligations.FirstApplicableErrorIsReported : Prop :=
  (∀ (s : State), s.busy = true → ¬ legalWord s.cmdLatch →
    coreStep s = .next (flagsError .illegalCommand s)) ∧
  ∀ (i : Instr) (s : State), s.tagLen.toNat ≤ 16 →
    (∀ e, firstError i s = some e → exec i s = .next (flagsError e s)) ∧
    (firstError i s = none →
      ∃ t, exec i s = .next t ∧ t.busy = false ∧ t.done = true ∧ t.err = s.err ∧ t.errCode = s.errCode)

/-- `60_exceptions.md` R287: a legal command ends with no error outside its row of the matrix, ends with each
error of its row in some state, and an illegal word ends with `IllegalCommand` only. -/
def Obligations.ErrorsAreThoseOfTheMatrix : Prop :=
  (∀ (i : Instr) (s t : State), i.wellFormed = true → s.err = false → exec i s = .next t → t.err = true →
    ∃ e ∈ possibleErrors i, t.errCode = errorCode e) ∧
  (∀ (i : Instr) (e : ErrorKind), i.wellFormed = true → e ∈ possibleErrors i →
    ∃ s : State, s.err = false ∧ exec i s = .next (flagsError e s)) ∧
  (∀ (s : State), s.busy = true → ¬ legalWord s.cmdLatch →
    coreStep s = .next (flagsError .illegalCommand s))

/-- `60_exceptions.md` R284: a command that ends with an error changes `BUSY`, `ERR` and `ERRCODE`, and nothing
else: "not `RK`, not the session, not the operand registers, not one byte of the buffer". -/
def Obligations.FailedCommandsChangeOnlyTheErrorRecord : Prop :=
  ∀ s t : State, s.busy = true → s.err = false → coreStep s = .next t → t.err = true →
    ∃ e, t = { s with busy := false, err := true, errCode := errorCode e }

/-- `60_exceptions.md` R283: with every earlier check passed, GCMDEC reports `AuthenticationFailure` exactly
when the recomputed tag differs from the supplied bytes; the buffer is then as before, byte for byte. -/
def Obligations.WrongTagsReleaseNothing : Prop :=
  ∀ s : State, s.sessValid = true → s.tagLen.toNat ≤ 16 → s.tlen.toNat = s.tagLen.toNat →
    (rangeA s).inside s.cfg → (rangeD s).inside s.cfg → (rangeT s).inside s.cfg →
    ¬ (rangeD s).overlaps (rangeA s) → ¬ (rangeD s).overlaps (rangeT s) →
    (gcmTag s.tsel s.rk s.h s.j0 (Memory.bytes s.buf s.aoff.toNat s.alen.toNat)
        (Memory.bytes s.buf s.doff.toNat s.dlen.toNat) s.tagLen.toNat ≠
          Memory.bytes s.buf s.toff.toNat s.tlen.toNat →
      exec .gcmdec s = .next { s with busy := false, err := true, errCode := 0x04#8 }) ∧
    (gcmTag s.tsel s.rk s.h s.j0 (Memory.bytes s.buf s.aoff.toNat s.alen.toNat)
        (Memory.bytes s.buf s.doff.toNat s.dlen.toNat) s.tagLen.toNat =
          Memory.bytes s.buf s.toff.toNat s.tlen.toNat →
      ∃ t, exec .gcmdec s = .next t ∧ t.done = true ∧ t.err = s.err ∧ t.errCode = s.errCode)

/-! ## Frames -/

/-- Frame of ECBENC, ECBDEC, GFMUL, GHASH, CTR, GCMENC and GCMDEC, however they complete: every byte outside
the ranges that `30_encoding.md` R94 says the command writes reads as before, and beside the buffer only the
flags of completion change (`10_state.md` R41). -/
def Obligations.FrameOfBufferCommands : Prop :=
  ∀ (i : Instr) (s t : State),
    i ∈ [Instr.ecbenc, .ecbdec, .gfmul, .ghash, .ctr, .gcmenc, .gcmdec] → exec i s = .next t →
    (∀ o, (∀ r ∈ writtenRanges i s, ¬ r.covers o) → Memory.byteAt t.buf o = Memory.byteAt s.buf o) ∧
    t = { s with buf := t.buf, busy := false, done := t.done, err := t.err, errCode := t.errCode } ∧
    ((t.done = true ∧ t.err = s.err ∧ t.errCode = s.errCode) ∨
     (t.done = s.done ∧ t.err = true ∧ t.buf = s.buf))

/-- Frame of KEYEXP, however it completes: every byte of the buffer reads as before (`10_state.md` R23), and
beside the instance, the session and the flags of completion nothing changes. -/
def Obligations.FrameOfKeyexp : Prop :=
  ∀ (tt : Bool) (s t : State), exec (.keyexp tt) s = .next t →
    (∀ o, Memory.byteAt t.buf o = Memory.byteAt s.buf o) ∧
    t = { s with
          rk := t.rk, keyValid := t.keyValid, tsel := t.tsel, sessValid := t.sessValid, h := t.h,
          j0 := t.j0, tagLen := t.tagLen, busy := false, done := t.done, err := t.err,
          errCode := t.errCode } ∧
    ((t.done = true ∧ t.err = s.err ∧ t.errCode = s.errCode) ∨
     (t.done = s.done ∧ t.err = true ∧ t.rk = s.rk ∧ t.keyValid = s.keyValid ∧ t.tsel = s.tsel ∧
      t.sessValid = s.sessValid ∧ t.h = s.h ∧ t.j0 = s.j0 ∧ t.tagLen = s.tagLen))

/-- Frame of GCMINIT, however it completes: every byte of the buffer reads as before, and beside the session
and the flags of completion nothing changes; the key and its strategy stay (`46_gcm.md` R246). -/
def Obligations.FrameOfGcminit : Prop :=
  ∀ (tl : BitVec 8) (s t : State), exec (.gcminit tl) s = .next t →
    (∀ o, Memory.byteAt t.buf o = Memory.byteAt s.buf o) ∧
    t = { s with
          sessValid := t.sessValid, h := t.h, j0 := t.j0, tagLen := t.tagLen, busy := false,
          done := t.done, err := t.err, errCode := t.errCode } ∧
    ((t.done = true ∧ t.err = s.err ∧ t.errCode = s.errCode) ∨
     (t.done = s.done ∧ t.err = true ∧ t.sessValid = s.sessValid ∧ t.h = s.h ∧ t.j0 = s.j0 ∧
      t.tagLen = s.tagLen))

/-! ## Whole-machine rules -/

/-- `30_encoding.md` R99: the state machine NOKEY, KEYED, SESSION. A failed command leaves the state; KEYEXP
leads to KEYED and GCMINIT, from a keyed state, to SESSION; every other command leaves the state, and can
succeed only where it is permitted, ending elsewhere with `NoKey` or `NoSession`. -/
def Obligations.CommandsMoveTheKeyAndSessionState : Prop :=
  ∀ (i : Instr) (s t : State), i.wellFormed = true → s.err = false → exec i s = .next t →
    (t.err = true → t.keyValid = s.keyValid ∧ t.sessValid = s.sessValid) ∧
    (t.err = false →
      (∀ tt, i = .keyexp tt → t.keyValid = true ∧ t.sessValid = false) ∧
      (∀ tl, i = .gcminit tl → s.keyValid = true ∧ t.keyValid = true ∧ t.sessValid = true) ∧
      (i ∈ [Instr.ecbenc, .ecbdec, .gfmul, .ghash, .ctr, .gcmenc, .gcmdec] →
        t.keyValid = s.keyValid ∧ t.sessValid = s.sessValid) ∧
      (i ∈ [Instr.ecbenc, .ecbdec, .ctr] → s.keyValid = true) ∧
      (i ∈ [Instr.ghash, .gcmenc, .gcmdec] → s.sessValid = true)) ∧
    (s.keyValid = false → (i ∈ [Instr.ecbenc, .ecbdec, .ctr] ∨ ∃ tl, i = .gcminit tl) →
      t.errCode = 0x11#8) ∧
    (s.sessValid = false → i ∈ [Instr.ghash, .gcmenc, .gcmdec] → t.errCode = 0x12#8)

/-- `70_reset_and_hazards.md` R322, `10_state.md` R22: nothing but reset returns `KEYVALID` to 0. -/
def Obligations.OnlyResetClearsKeyValid : Prop :=
  ∀ s t : State, s.keyValid = true → step s = .next t → t.keyValid = false →
    ∃ rest, s.pending = .reset :: rest

/-- `10_state.md` R21: the round keys change only at reset or at the completion of a successful KEYEXP, which
writes all 32 words of a key in one step. -/
def Obligations.OnlyKeyexpWritesRoundKeys : Prop :=
  ∀ s t : State, step s = .next t → t.rk ≠ s.rk →
    (∃ rest, s.pending = .reset :: rest) ∨
    (s.busy = true ∧ t.busy = false ∧ t.done = true ∧
      ∃ tt, latched s = .ok (.keyexp tt) ∧
        t.rk = keyExpand (be128 (Memory.bytes s.buf s.aoff.toNat 16)))

/-- `30_encoding.md` R94 and `20_memory.md` R74: a command gives the same result whatever the registers of the
descriptors it does not use hold. -/
def Obligations.UnusedDescriptorsAreIgnored : Prop :=
  ∀ (s : State) (v w x y : Word),
    (∀ tt, exec (.keyexp tt) { s with doff := v, dlen := w, toff := x, tlen := y } =
      onNext (fun t => { t with doff := v, dlen := w, toff := x, tlen := y }) (exec (.keyexp tt) s)) ∧
    (∀ tl, exec (.gcminit tl) { s with doff := v, dlen := w, toff := x, tlen := y } =
      onNext (fun t => { t with doff := v, dlen := w, toff := x, tlen := y }) (exec (.gcminit tl) s)) ∧
    (∀ i ∈ [Instr.ecbenc, .ecbdec], exec i { s with aoff := v, alen := w, toff := x, tlen := y } =
      onNext (fun t => { t with aoff := v, alen := w, toff := x, tlen := y }) (exec i s)) ∧
    (exec .ctr { s with toff := x, tlen := y } =
      onNext (fun t => { t with toff := x, tlen := y }) (exec .ctr s)) ∧
    (∀ i ∈ [Instr.gfmul, .ghash, .gcmenc], exec i { s with tlen := y } =
      onNext (fun t => { t with tlen := y }) (exec i s))

/-! ## The cipher -/

/-- `40_constants_sbox.md` R128: the laws of the word transforms. -/
def Obligations.WordTransformLaws : Prop :=
  (∀ x y, diffuse (x ^^^ y) = diffuse x ^^^ diffuse y) ∧
  (∀ x y, diffuseKey (x ^^^ y) = diffuseKey x ^^^ diffuseKey y) ∧
  diffuse 0#32 = 0#32 ∧ diffuseKey 0#32 = 0#32 ∧
  diffuse 0xFFFFFFFF#32 = 0xFFFFFFFF#32 ∧ diffuseKey 0xFFFFFFFF#32 = 0xFFFFFFFF#32 ∧
  Function.Bijective tau ∧
  (¬ ∀ x y, tau (x ^^^ y) = tau x ^^^ tau y) ∧
  (¬ ∀ x y, transform (x ^^^ y) = transform x ^^^ transform y) ∧
  (¬ ∀ x y, transformKey (x ^^^ y) = transformKey x ^^^ transformKey y)

/-- `40_constants_sbox.md` R129, with the permutation property of R120: the known answer of item 1 and the four
readings of C1 that do not give it, the algebraic construction of `SBOX` of item 2a with the inversion it names,
and the law of `CK` of item 3 (R122). Item 2b, a million encryptions, is not stated. Which way the rows of the
bit matrix turn is the model's reading (DEDUCED, log entry 13). -/
def Obligations.ConstantsPassTheirChecks : Prop :=
  enc false (keyExpand knownAnswerInput) knownAnswerInput = knownAnswerOutput ∧
  knownAnswerUnder diffuse diffuseKey = knownAnswerOutput ∧
  (∀ p ∈ [(diffuseWithoutTerm, diffuseWithoutTerm), (diffuse, diffuse), (diffuseWithoutTerm, diffuseKey),
      (diffuse, diffuseWithoutTerm)], knownAnswerUnder p.1 p.2 ≠ knownAnswerOutput) ∧
  Function.Bijective sbox ∧
  (∀ x : Byte, sbox x = sboxConstruction x) ∧
  (∀ x : Byte, x ≠ 0x00#8 → gf256Mul x (gf256Inv x) = 0x01#8) ∧ gf256Inv 0x00#8 = 0x00#8 ∧
  ∀ i j : Nat, i < 32 → j < 4 → byteOf (roundConstants.getD i 0#32) j = roundConstantByte i j

/-- `43_ttable.md` R183: table `p` is table 0 rotated right by `8p` bits, because `L` commutes with rotation; the
sample entries of R180 show it. -/
def Obligations.TablesAreRotationsOfOne : Prop :=
  (∀ (p : Nat) (b : Byte), p < 4 → ttable p b = (ttable 0 b).rotateRight (8 * p)) ∧
  (∀ (n : Nat) (x : Word), n < 32 → diffuse (x.rotateRight n) = (diffuse x).rotateRight n) ∧
  ttable 0 0x00#8 = 0x8ED55B5B#32 ∧ ttable 1 0x00#8 = 0x5B8ED55B#32 ∧
  ttable 2 0x00#8 = 0x5B5B8ED5#32 ∧ ttable 3 0x00#8 = 0xD55B5B8E#32

/-- `43_ttable.md` R182, `10_state.md` R25: the accelerated round transform equals the direct one, and so the
strategy bit changes no result, no error and no other state of a command (KEYEXP itself writes the bit from its
word). -/
def Obligations.StrategyBitChangesNoResult : Prop :=
  (∀ a : Word, transformTable a = transform a) ∧
  transformTable 0x00000000#32 = 0x5B5B5B5B#32 ∧
  (∀ (rk : Vector Word 32) (b : Block), enc true rk b = enc false rk b ∧ dec true rk b = dec false rk b) ∧
  ∀ (i : Instr) (s : State) (b : Bool),
    ((∀ tt, i ≠ .keyexp tt) →
      exec i { s with tsel := b } = onNext (fun t => { t with tsel := b }) (exec i s)) ∧
    (∀ tt, i = .keyexp tt → onNext (fun t => { t with tsel := b }) (exec i { s with tsel := b }) =
      onNext (fun t => { t with tsel := b }) (exec i s))

/-- `42_block_cipher.md` R165: decryption undoes encryption and encryption decryption, for any 32 words as
round keys; both are bijections; and the reversed keys undo the keys for every round transform. -/
def Obligations.BlockCipherRoundTrip : Prop :=
  (∀ (t : Word → Word) (rks : List Word) (b : Block), crypt t rks.reverse (crypt t rks b) = b) ∧
  ∀ (tsel : Bool) (rk : Vector Word 32),
    (∀ b, dec tsel rk (enc tsel rk b) = b ∧ enc tsel rk (dec tsel rk b) = b) ∧
    Function.Bijective (enc tsel rk) ∧ Function.Bijective (dec tsel rk)

/-- `41_key_schedule.md` R141: different keys give different round-key sets. -/
def Obligations.DifferentKeysDifferentRoundKeys : Prop :=
  ∀ k k' : Block, keyExpand k = keyExpand k' → k = k'

/-! ## The multiplier and the hash -/

/-- `44_ghash.md` R198: zero annihilates, 1 is the identity on either side, 2 is multiplication by x, and the
product distributes over XOR on either side. -/
def Obligations.MultiplierUnitAndDistributivity : Prop :=
  (∀ y, gfmul 0#128 y = 0#128) ∧ (∀ x, gfmul x 0#128 = 0#128) ∧
  (∀ y, gfmul 1#128 y = y) ∧ (∀ x, gfmul x 1#128 = x) ∧
  (∀ y, gfmul 2#128 y = if y.getLsbD 127 then (y <<< 1) ^^^ 0x87#128 else y <<< 1) ∧
  (∀ a b c, gfmul (a ^^^ b) c = gfmul a c ^^^ gfmul b c) ∧
  (∀ a b c, gfmul a (b ^^^ c) = gfmul a b ^^^ gfmul a c)

/-- `44_ghash.md` R198: the product is commutative and associative. -/
def Obligations.MultiplierIsCommutativeAndAssociative : Prop :=
  (∀ x y, gfmul x y = gfmul y x) ∧ (∀ x y z, gfmul (gfmul x y) z = gfmul x (gfmul y z))

/-- `44_ghash.md` R199: the hash of nothing is zero, the hash under the zero subkey is zero, and the hash is
linear over XOR in data of fixed lengths. -/
def Obligations.HashCornersAndLinearity : Prop :=
  (∀ h, ghash h [] [] = 0#128) ∧ (∀ a c, ghash 0#128 a c = 0#128) ∧
  ∀ (h : Block) (a a' c c' : List Byte), a.length = a'.length → c.length = c'.length →
    ghash h (xorBytes a a') (xorBytes c c') =
      ghash h a c ^^^ ghash h a' c' ^^^ ghash h (zeroBytes a.length) (zeroBytes c.length)

/-! ## Counter mode and GCM -/

/-- `45_ctr.md` R220, R222: counter mode is an involution that keeps the length; byte `k` of the output depends
on byte `k` of the input and on keystream block `k div 16`; the increment leaves the first twelve bytes and
returns after 2^32 steps. -/
def Obligations.CounterModeLaws : Prop :=
  (∀ (tsel : Bool) (rk : Vector Word 32) (icb : Block) (d : List Byte),
    ctrMode tsel rk icb (ctrMode tsel rk icb d) = d ∧ (ctrMode tsel rk icb d).length = d.length ∧
    ∀ k : Nat, k < d.length →
      (ctrMode tsel rk icb d)[k]? =
        some (d.getD k 0#8 ^^^ byteOf (enc tsel rk (inc32^[k / 16] icb)) (k % 16))) ∧
  (∀ cb : Block, (inc32 cb).extractLsb' 32 96 = cb.extractLsb' 32 96 ∧
    (inc32 cb).extractLsb' 0 32 = cb.extractLsb' 0 32 + 1#32 ∧ inc32^[2 ^ 32] cb = cb)

/-- `46_gcm.md` R241: the initial counter of a 12-byte nonce is the nonce followed by 00 00 00 01; of any other
nonce it is the hash of the nonce, and of the empty nonce it is zero. -/
def Obligations.InitialCounterOfANonce : Prop :=
  (∀ (h : Block) (nonce : List Byte), nonce.length = 12 →
    bytes128 (deriveJ0 h nonce) = nonce ++ [0x00#8, 0x00#8, 0x00#8, 0x01#8]) ∧
  (∀ (h : Block) (nonce : List Byte), nonce.length ≠ 12 → deriveJ0 h nonce = ghash h [] nonce) ∧
  ∀ h : Block, deriveJ0 h [] = 0#128

/-- `46_gcm.md` R245: "The value of `TagEqual` is plain equality of the two sequences". -/
def Obligations.TagComparisonIsEquality : Prop :=
  ∀ a b : List Byte, a.length = b.length → (tagEqual a b = true ↔ a = b)

/-- `46_gcm.md` R243, R244 and `70_reset_and_hazards.md` R333: a tag of `n` bytes is the leading `n` bytes of the
full tag, and the first payload block and the tag share a keystream block: ciphertext XOR plaintext of the
first block is the tag mask, and the full tag XOR the mask is the hash. -/
def Obligations.TagTruncationAndSharedMask : Prop :=
  ∀ (tsel : Bool) (rk : Vector Word 32) (h j0 : Block) (aad pt : List Byte) (n : Nat), n ≤ 16 →
    gcmTag tsel rk h j0 aad pt n = (gcmTag tsel rk h j0 aad pt 16).take n ∧
    (gcmTag tsel rk h j0 aad pt n).length = n ∧
    xorBytes (gcmTag tsel rk h j0 aad pt 16) (bytes128 (enc tsel rk j0)) = bytes128 (ghash h aad pt) ∧
    (16 ≤ pt.length →
      xorBytes ((ctrMode tsel rk j0 pt).take 16) (pt.take 16) = bytes128 (enc tsel rk j0))

/-- `46_gcm.md` R249: what GCMENC produced, GCMDEC on the same session with the same descriptors and `TLEN` =
`TAGLEN` accepts, and it gives back the plaintext; beside the tag range every byte is then as it was before
GCMENC. -/
def Obligations.GcmRoundTrip : Prop :=
  ∀ (s t : State) (tlen : Word), s.tagLen.toNat ≤ 16 → firstError .gcmenc s = none →
    exec .gcmenc s = .next t → tlen.toNat = s.tagLen.toNat →
    ∃ u, exec .gcmdec { t with tlen := tlen, busy := true, done := false } = .next u ∧
      u.done = true ∧ u.err = t.err ∧
      Memory.bytes u.buf s.doff.toNat s.dlen.toNat = Memory.bytes s.buf s.doff.toNat s.dlen.toNat ∧
      (∀ o, ¬ (rangeTag s).covers o → Memory.byteAt u.buf o = Memory.byteAt s.buf o)

/-- `60_exceptions.md` R283: from a state in which GCMDEC would succeed, changing one byte of the tag (that is no
byte of the authentication data) makes it end with `AuthenticationFailure`; with `TAGLEN = 16` and an `H` that annihilates nothing, so does changing one
byte of the ciphertext or of the authentication data (that is no byte of the tag range). That such an `H` is
every nonzero one rests on the irreducibility of POLY, which the spec marks as general knowledge (G10). -/
def Obligations.ChangedBytesAreRefused : Prop :=
  ∀ (s : State) (o : Nat) (d : Byte), s.tagLen.toNat ≤ 16 → firstError .gcmdec s = none → d ≠ 0#8 →
    (((rangeT s).covers o ∧ ¬ (rangeA s).covers o) ∨
     (((rangeD s).covers o ∨ ((rangeA s).covers o ∧ ¬ (rangeT s).covers o)) ∧ s.tagLen = 16#5 ∧
      annihilatesNothing s.h)) →
    ∀ s' : State, s' = { s with buf := Memory.store s.buf o (Memory.byteAt s.buf o ^^^ d) } →
      exec .gcmdec s' = .next (flagsError .authenticationFailure s')
end

