-- ==== Sys2Proof/Laws/Bytes.lean ====
section
/-! SUPPORT. Packing and unpacking are inverse (`00_scope.md` R12), and lengths of byte sequences. -/

namespace Sys2Proof.Machine

/-! ### Bits of packed sequences -/

/-- Bit `i` of a big-endian fold is bit `i mod 8` of the byte that stands `i / 8` places from the end. -/
theorem getLsbD_packed {w : Nat} (bs : List Byte) (i : Nat) (hi : i < w) :
    (bs.foldl (fun (acc : BitVec w) b => (acc <<< 8) ||| b.setWidth w) (0#w)).getLsbD i =
      if h : i / 8 < bs.length then (bs[bs.length - 1 - i / 8]'(by omega)).getLsbD (i % 8) else false := by
  induction bs using List.reverseRecOn generalizing i with
  | nil => simp
  | append_singleton bs b ih =>
    simp only [List.foldl_append, List.foldl_cons, List.foldl_nil, BitVec.getLsbD_or,
      BitVec.getLsbD_shiftLeft, BitVec.getLsbD_setWidth, hi, decide_true, Bool.true_and]
    by_cases h8 : i < 8
    · have h0 : i / 8 = 0 := by omega
      have hm : i % 8 = i := by omega
      simp [h8, h0, hm]
    · have hb : b.getLsbD i = false := BitVec.getLsbD_of_ge _ _ (by omega)
      have e1 : (i - 8) / 8 = i / 8 - 1 := by omega
      have e2 : (i - 8) % 8 = i % 8 := by omega
      rw [ih (i - 8) (by omega)]
      simp only [h8, decide_false, Bool.not_false, Bool.true_and, hb, Bool.or_false, e1, e2,
        List.length_append, List.length_singleton]
      by_cases hl : i / 8 < bs.length + 1
      · rw [dif_pos (by omega), dif_pos hl, List.getElem_append_left (by omega)]
        congr 2
        omega
      · rw [dif_neg (by omega), dif_neg hl]

/-- Bit `k` of byte `j` of a value. -/
theorem getLsbD_byteOf {w : Nat} (v : BitVec w) (j k : Nat) :
    (byteOf v j).getLsbD k = (decide (k < 8) && v.getLsbD (w - 8 * (j + 1) + k)) := by
  simp [byteOf]

/-! ### Blocks -/

@[simp] theorem bytes128_length (v : Block) : (bytes128 v).length = 16 := by simp [bytes128]

theorem getElem_bytes128 (v : Block) (j : Nat) (h : j < (bytes128 v).length) :
    (bytes128 v)[j] = byteOf v j := by simp [bytes128]

/-- `be128` undoes `bytes128`. -/
@[simp] theorem be128_bytes128 (v : Block) : be128 (bytes128 v) = v := by
  apply BitVec.eq_of_getLsbD_eq
  intro i hi
  rw [be128, getLsbD_packed _ _ hi, dif_pos (by rw [bytes128_length]; omega), getElem_bytes128,
    getLsbD_byteOf, bytes128_length]
  have h8 : i % 8 < 8 := Nat.mod_lt _ (by decide)
  simp only [h8, decide_true, Bool.true_and]
  congr 1
  omega

/-- `bytes128` undoes `be128` on 16 bytes. -/
theorem bytes128_be128 {bs : List Byte} (h : bs.length = 16) : bytes128 (be128 bs) = bs := by
  apply List.ext_getElem (by simp [h])
  intro j h1 h2
  rw [getElem_bytes128]
  apply BitVec.eq_of_getLsbD_eq
  intro k hk
  rw [getLsbD_byteOf, be128, getLsbD_packed _ _ (by omega), dif_pos (by omega)]
  simp only [hk, decide_true, Bool.true_and]
  have e1 : (128 - 8 * (j + 1) + k) / 8 = 15 - j := by omega
  have e2 : (128 - 8 * (j + 1) + k) % 8 = k := by omega
  have e3 : bs.length - 1 - (128 - 8 * (j + 1) + k) / 8 = j := by omega
  simp only [e2, e3]

/-! ### Words -/

@[simp] theorem bytes32_length (w : Word) : (bytes32 w).length = 4 := by simp [bytes32]

theorem getElem_bytes32 (w : Word) (j : Nat) (h : j < (bytes32 w).length) :
    (bytes32 w)[j] = byteOf w j := by simp [bytes32]

/-- `be32` undoes `bytes32`. -/
@[simp] theorem be32_bytes32 (w : Word) : be32 (bytes32 w) = w := by
  apply BitVec.eq_of_getLsbD_eq
  intro i hi
  rw [be32, getLsbD_packed _ _ hi, dif_pos (by rw [bytes32_length]; omega), getElem_bytes32,
    getLsbD_byteOf, bytes32_length]
  have h8 : i % 8 < 8 := Nat.mod_lt _ (by decide)
  simp only [h8, decide_true, Bool.true_and]
  congr 1
  omega

/-! ### Length fields -/

@[simp] theorem bytes64_length (v : BitVec 64) : (bytes64 v).length = 8 := by simp [bytes64]

@[simp] theorem lenBlock_length (a c : List Byte) : (lenBlock a c).length = 16 := by simp [lenBlock]

/-- `Pad16` makes the length a multiple of 16 (R194). -/
theorem pad16_length (s : List Byte) : (pad16 s).length = (s.length + 15) / 16 * 16 := by
  simp only [pad16, zeroBytes, List.length_append, List.length_replicate]
  omega

/-! ### Exclusive-or of sequences -/

@[simp] theorem xorBytes_length (a b : List Byte) : (xorBytes a b).length = min a.length b.length := by
  simp [xorBytes]

theorem getElem_xorBytes (a b : List Byte) (j : Nat) (h : j < (xorBytes a b).length) :
    (xorBytes a b)[j] =
      a[j]'(by simp at h; omega) ^^^ b[j]'(by simp at h; omega) := by
  simp [xorBytes]

/-! ### Counter mode and tag lengths -/

theorem ctrIterate_length (tsel : Bool) (rk : Vector Word 32) (n : Nat) (cb : Block) (d : List Byte)
    (h : d.length ≤ 16 * n) : (ctrIterate tsel rk n cb d).length = d.length := by
  induction n generalizing cb d with
  | zero => simp only [ctrIterate, List.length_nil]; omega
  | succ n ih =>
    simp only [ctrIterate, List.length_append, xorBytes_length, List.length_take, bytes128_length]
    rw [ih _ _ (by rw [List.length_drop]; omega), List.length_drop]
    omega

/-- "Length is preserved exactly" (`45_ctr.md` R222). -/
@[simp] theorem ctrMode_length (tsel : Bool) (rk : Vector Word 32) (icb : Block) (d : List Byte) :
    (ctrMode tsel rk icb d).length = d.length := ctrIterate_length _ _ _ _ _ (by omega)

/-- A tag of `n` bytes, `n` at most 16, has `n` bytes (`46_gcm.md` R243). -/
theorem gcmTag_length (tsel : Bool) (rk : Vector Word 32) (h j0 : Block) (a c : List Byte) (n : Nat)
    (hn : n ≤ 16) : (gcmTag tsel rk h j0 a c n).length = n := by
  simp only [gcmTag, List.length_take, bytes128_length]
  omega

end Sys2Proof.Machine
end

