-- ==== Sys2Proof/Laws/Memory.lean ====
section
/-! SUPPORT. The laws of the operand buffer: a byte stored is the byte read, every other byte is unchanged, and
every operation keeps the canonical form (`20_memory.md` R72, R73). -/

namespace Sys2Proof.Machine

/-! ### One byte -/

theorem cell?_store (m : Memory) (o a : Nat) (b : Byte) :
    Memory.cell? (Memory.store m o b) a = if a = o then some b else Memory.cell? m a := by
  induction m with
  | nil =>
    by_cases h : a = o
    · simp [Memory.store, Memory.cell?, h]
    · simp [Memory.store, Memory.cell?, h, Ne.symm h]
  | cons c m ih =>
    obtain ⟨d, x⟩ := c
    simp only [Memory.store]
    split
    · by_cases h : a = o
      · simp [Memory.cell?, h]
      · simp [Memory.cell?, h, Ne.symm h]
    · split
      · next h =>
        subst h
        by_cases h : a = o
        · simp [Memory.cell?, h]
        · simp [Memory.cell?, h, Ne.symm h]
      · next h1 h2 =>
        by_cases h : a = o
        · subst h
          simp [Memory.cell?, ih, Ne.symm h2]
        · simp [Memory.cell?, ih, h]

/-- A byte reads as it was last stored; every other byte is left alone. -/
theorem byteAt_store (m : Memory) (o a : Nat) (b : Byte) :
    Memory.byteAt (Memory.store m o b) a = if a = o then b else Memory.byteAt m a := by
  unfold Memory.byteAt
  rw [cell?_store]
  split <;> rfl

/-- A cell of the stored memory is the stored one or an old one. -/
theorem mem_store {m : Memory} {o : Nat} {b : Byte} {c : Host.Cell} (h : c ∈ Memory.store m o b) :
    c = (o, b) ∨ c ∈ m := by
  induction m with
  | nil => simpa [Memory.store] using h
  | cons d m ih =>
    obtain ⟨e, x⟩ := d
    simp only [Memory.store] at h
    split at h
    · simpa using h
    · split at h
      · simp only [List.mem_cons] at h ⊢
        tauto
      · simp only [List.mem_cons] at h ⊢
        rcases h with h | h
        · tauto
        · have := ih h
          tauto

/-- Storing a byte keeps the canonical form. -/
theorem store_wf {m : Memory} (o : Nat) (b : Byte) (h : Memory.wf m) : Memory.wf (Memory.store m o b) := by
  induction m with
  | nil => simp [Memory.store]
  | cons c m ih =>
    obtain ⟨d, x⟩ := c
    have hm := List.pairwise_cons.mp h
    simp only [Memory.store]
    split
    · next hlt =>
      refine List.pairwise_cons.mpr ⟨?_, h⟩
      intro e he
      rcases List.mem_cons.mp he with rfl | he
      · exact hlt
      · exact Nat.lt_trans hlt (hm.1 e he)
    · split
      · next heq => subst heq; exact List.pairwise_cons.mpr ⟨hm.1, hm.2⟩
      · refine List.pairwise_cons.mpr ⟨?_, ih hm.2⟩
        intro e he
        rcases mem_store he with rfl | he
        · simp only; omega
        · exact hm.1 e he

/-- Storing the same byte twice is storing it once. -/
theorem store_store_same (m : Memory) (o : Nat) (b : Byte) :
    Memory.store (Memory.store m o b) o b = Memory.store m o b := by
  induction m with
  | nil => simp [Memory.store]
  | cons c m ih =>
    obtain ⟨d, x⟩ := c
    simp only [Memory.store]
    split
    · simp [Memory.store]
    · split
      · simp [Memory.store]
      · next h1 h2 => simp [Memory.store, h1, h2, ih]

/-! ### Byte ranges -/

@[simp] theorem bytes_length (m : Memory) (off n : Nat) : (Memory.bytes m off n).length = n := by
  simp [Memory.bytes]

theorem getElem_bytes (m : Memory) (off n j : Nat) (h : j < (Memory.bytes m off n).length) :
    (Memory.bytes m off n)[j] = Memory.byteAt m (off + j) := by
  simp [Memory.bytes]

theorem storeBytes_nil (m : Memory) (off : Nat) : Memory.storeBytes m off [] = m := by
  rw [Memory.storeBytes]

theorem storeBytes_cons (m : Memory) (off : Nat) (b : Byte) (bs : List Byte) :
    Memory.storeBytes m off (b :: bs) = Memory.storeBytes (Memory.store m off b) (off + 1) bs := by
  rw [Memory.storeBytes]

/-- What `storeBytes` leaves at each offset (R73). -/
theorem byteAt_storeBytes (m : Memory) (off a : Nat) (bs : List Byte) :
    Memory.byteAt (Memory.storeBytes m off bs) a =
      if h : off ≤ a ∧ a < off + bs.length then bs[a - off]'(by omega) else Memory.byteAt m a := by
  induction bs generalizing m off with
  | nil =>
    rw [dif_neg (by simp only [List.length_nil]; omega), storeBytes_nil]
  | cons b bs ih =>
    simp only [storeBytes_cons, ih, List.length_cons]
    by_cases h1 : off + 1 ≤ a ∧ a < off + 1 + bs.length
    · rw [dif_pos h1, dif_pos (by omega)]
      have : a - off = (a - (off + 1)) + 1 := by omega
      simp [this]
    · rw [dif_neg h1, byteAt_store]
      by_cases h2 : a = off
      · subst h2
        simp
      · rw [if_neg h2, dif_neg (by omega)]

/-- Outside the stored range every byte is unchanged (R73). -/
theorem byteAt_storeBytes_outside {m : Memory} {off a : Nat} {bs : List Byte}
    (h : ¬ (off ≤ a ∧ a < off + bs.length)) :
    Memory.byteAt (Memory.storeBytes m off bs) a = Memory.byteAt m a := by
  rw [byteAt_storeBytes, dif_neg h]

/-- The stored range reads as what was stored (R72, R73). -/
theorem bytes_storeBytes_same (m : Memory) (off : Nat) (bs : List Byte) :
    Memory.bytes (Memory.storeBytes m off bs) off bs.length = bs := by
  apply List.ext_getElem (by simp)
  intro j h1 h2
  rw [getElem_bytes, byteAt_storeBytes, dif_pos (by omega)]
  simp

/-- Storing a byte that was just stored there changes nothing. -/
theorem store_same (m : Memory) (o : Nat) (b : Byte) :
    Memory.store (Memory.store m o b) o b = Memory.store m o b := by
  induction m with
  | nil => simp [Memory.store]
  | cons c m ih =>
    obtain ⟨a, x⟩ := c
    by_cases h1 : o < a
    · simp [Memory.store, h1]
    · by_cases h2 : o = a <;> simp [Memory.store, h1, h2, ih]

/-- The same with a store to a higher offset between the two. -/
theorem store_same_above (m : Memory) {o o' : Nat} (b b' : Byte) (h : o < o') :
    Memory.store (Memory.store (Memory.store m o b) o' b') o b =
      Memory.store (Memory.store m o b) o' b' := by
  have hn : ¬ o' < o := by omega
  have hne : o' ≠ o := by omega
  induction m with
  | nil => simp [Memory.store, hn, hne]
  | cons c m ih =>
    obtain ⟨a, x⟩ := c
    by_cases h1 : o < a
    · simp [Memory.store, h1, hn, hne]
    · by_cases h2 : o = a
      · subst h2
        simp [Memory.store, hn, hne]
      · have h3 : ¬ o' < a := by omega
        have h4 : o' ≠ a := by omega
        simp [Memory.store, h1, h2, h3, h4, ih]

/-- A byte whose store changes nothing keeps that property when bytes above it are stored. -/
theorem store_storeBytes_same {o off : Nat} {b : Byte} (bs : List Byte) {m : Memory} (ho : o < off)
    (h : Memory.store m o b = m) :
    Memory.store (Memory.storeBytes m off bs) o b = Memory.storeBytes m off bs := by
  induction bs generalizing m off with
  | nil => rw [storeBytes_nil, h]
  | cons c bs ih =>
    rw [storeBytes_cons]
    refine ih (by omega) ?_
    have := store_same_above m b c ho
    rwa [h] at this

/-- Storing bytes twice is storing them once (`20_memory.md` R67). -/
theorem storeBytes_same (m : Memory) (off : Nat) (bs : List Byte) :
    Memory.storeBytes (Memory.storeBytes m off bs) off bs = Memory.storeBytes m off bs := by
  induction bs generalizing m off with
  | nil => simp only [storeBytes_nil]
  | cons c bs ih =>
    rw [storeBytes_cons, storeBytes_cons, store_storeBytes_same bs (by omega) (store_same ..), ih]

/-- A range that does not overlap the stored one reads as before. -/
theorem bytes_storeBytes_disjoint {m : Memory} {off o n : Nat} {bs : List Byte}
    (h : ∀ a, o ≤ a → a < o + n → ¬ (off ≤ a ∧ a < off + bs.length)) :
    Memory.bytes (Memory.storeBytes m off bs) o n = Memory.bytes m o n := by
  apply List.ext_getElem (by simp)
  intro j h1 h2
  rw [bytes_length] at h1
  rw [getElem_bytes, getElem_bytes, byteAt_storeBytes_outside (h _ (by omega) (by omega))]

/-- Storing a byte sequence keeps the canonical form. -/
theorem storeBytes_wf {m : Memory} (off : Nat) (bs : List Byte) (h : Memory.wf m) :
    Memory.wf (Memory.storeBytes m off bs) := by
  induction bs generalizing m off with
  | nil => rwa [storeBytes_nil]
  | cons b bs ih => rw [storeBytes_cons]; exact ih _ (store_wf _ _ h)

/-- A cell of the stored memory is an old one or lies in the stored range. -/
theorem mem_storeBytes {m : Memory} {off : Nat} {bs : List Byte} {c : Host.Cell}
    (h : c ∈ Memory.storeBytes m off bs) : c ∈ m ∨ (off ≤ c.1 ∧ c.1 < off + bs.length) := by
  induction bs generalizing m off with
  | nil => rw [storeBytes_nil] at h; exact .inl h
  | cons b bs ih =>
    rw [storeBytes_cons] at h
    rcases ih h with h | h
    · rcases mem_store h with rfl | h
      · right; simp
      · exact .inl h
    · right; simp only [List.length_cons]; omega

/-- No cell is written outside a bound that holds the old cells and the stored range. -/
theorem storeBytes_inside {m : Memory} {off n : Nat} {bs : List Byte}
    (hm : ∀ c ∈ m, c.1 < n) (h : off + bs.length ≤ n) :
    ∀ c ∈ Memory.storeBytes m off bs, c.1 < n := by
  intro c hc
  rcases mem_storeBytes hc with hc | hc
  · exact hm c hc
  · omega

end Sys2Proof.Machine
end

