-- ==== Sys2Proof/Laws/State.lean ====
section
/-! SUPPORT. What each named update of the state does to each field, one lemma a field, so that no proof unfolds
a record update. -/

namespace Sys2Proof.Machine

/-! ### `flagsAccepted`: acceptance flags (R96) -/

@[simp] theorem flagsAccepted_cfg (s : State) : (flagsAccepted s).cfg = s.cfg := rfl
@[simp] theorem flagsAccepted_keyValid (s : State) : (flagsAccepted s).keyValid = s.keyValid := rfl
@[simp] theorem flagsAccepted_tsel (s : State) : (flagsAccepted s).tsel = s.tsel := rfl
@[simp] theorem flagsAccepted_rk (s : State) : (flagsAccepted s).rk = s.rk := rfl
@[simp] theorem flagsAccepted_sessValid (s : State) : (flagsAccepted s).sessValid = s.sessValid := rfl
@[simp] theorem flagsAccepted_h (s : State) : (flagsAccepted s).h = s.h := rfl
@[simp] theorem flagsAccepted_j0 (s : State) : (flagsAccepted s).j0 = s.j0 := rfl
@[simp] theorem flagsAccepted_tagLen (s : State) : (flagsAccepted s).tagLen = s.tagLen := rfl
@[simp] theorem flagsAccepted_busy (s : State) : (flagsAccepted s).busy = true := rfl
@[simp] theorem flagsAccepted_done (s : State) : (flagsAccepted s).done = false := rfl
@[simp] theorem flagsAccepted_err (s : State) : (flagsAccepted s).err = false := rfl
@[simp] theorem flagsAccepted_errCode (s : State) : (flagsAccepted s).errCode = 0x00#8 := rfl
@[simp] theorem flagsAccepted_cmdLatch (s : State) : (flagsAccepted s).cmdLatch = s.cmdLatch := rfl
@[simp] theorem flagsAccepted_aoff (s : State) : (flagsAccepted s).aoff = s.aoff := rfl
@[simp] theorem flagsAccepted_alen (s : State) : (flagsAccepted s).alen = s.alen := rfl
@[simp] theorem flagsAccepted_doff (s : State) : (flagsAccepted s).doff = s.doff := rfl
@[simp] theorem flagsAccepted_dlen (s : State) : (flagsAccepted s).dlen = s.dlen := rfl
@[simp] theorem flagsAccepted_toff (s : State) : (flagsAccepted s).toff = s.toff := rfl
@[simp] theorem flagsAccepted_tlen (s : State) : (flagsAccepted s).tlen = s.tlen := rfl
@[simp] theorem flagsAccepted_buf (s : State) : (flagsAccepted s).buf = s.buf := rfl
@[simp] theorem flagsAccepted_pending (s : State) : (flagsAccepted s).pending = s.pending := rfl
@[simp] theorem flagsAccepted_answer (s : State) : (flagsAccepted s).answer = s.answer := rfl
@[simp] theorem flagsAccepted_refusedAccess (s : State) : (flagsAccepted s).refusedAccess = s.refusedAccess := rfl

/-! ### `flagsDone`: completion without error (R97) -/

@[simp] theorem flagsDone_cfg (s : State) : (flagsDone s).cfg = s.cfg := rfl
@[simp] theorem flagsDone_keyValid (s : State) : (flagsDone s).keyValid = s.keyValid := rfl
@[simp] theorem flagsDone_tsel (s : State) : (flagsDone s).tsel = s.tsel := rfl
@[simp] theorem flagsDone_rk (s : State) : (flagsDone s).rk = s.rk := rfl
@[simp] theorem flagsDone_sessValid (s : State) : (flagsDone s).sessValid = s.sessValid := rfl
@[simp] theorem flagsDone_h (s : State) : (flagsDone s).h = s.h := rfl
@[simp] theorem flagsDone_j0 (s : State) : (flagsDone s).j0 = s.j0 := rfl
@[simp] theorem flagsDone_tagLen (s : State) : (flagsDone s).tagLen = s.tagLen := rfl
@[simp] theorem flagsDone_busy (s : State) : (flagsDone s).busy = false := rfl
@[simp] theorem flagsDone_done (s : State) : (flagsDone s).done = true := rfl
@[simp] theorem flagsDone_err (s : State) : (flagsDone s).err = s.err := rfl
@[simp] theorem flagsDone_errCode (s : State) : (flagsDone s).errCode = s.errCode := rfl
@[simp] theorem flagsDone_cmdLatch (s : State) : (flagsDone s).cmdLatch = s.cmdLatch := rfl
@[simp] theorem flagsDone_aoff (s : State) : (flagsDone s).aoff = s.aoff := rfl
@[simp] theorem flagsDone_alen (s : State) : (flagsDone s).alen = s.alen := rfl
@[simp] theorem flagsDone_doff (s : State) : (flagsDone s).doff = s.doff := rfl
@[simp] theorem flagsDone_dlen (s : State) : (flagsDone s).dlen = s.dlen := rfl
@[simp] theorem flagsDone_toff (s : State) : (flagsDone s).toff = s.toff := rfl
@[simp] theorem flagsDone_tlen (s : State) : (flagsDone s).tlen = s.tlen := rfl
@[simp] theorem flagsDone_buf (s : State) : (flagsDone s).buf = s.buf := rfl
@[simp] theorem flagsDone_pending (s : State) : (flagsDone s).pending = s.pending := rfl
@[simp] theorem flagsDone_answer (s : State) : (flagsDone s).answer = s.answer := rfl
@[simp] theorem flagsDone_refusedAccess (s : State) : (flagsDone s).refusedAccess = s.refusedAccess := rfl

/-! ### `flagsError`: completion with an error (R284) -/

@[simp] theorem flagsError_cfg (e : ErrorKind) (s : State) : (flagsError e s).cfg = s.cfg := rfl
@[simp] theorem flagsError_keyValid (e : ErrorKind) (s : State) : (flagsError e s).keyValid = s.keyValid := rfl
@[simp] theorem flagsError_tsel (e : ErrorKind) (s : State) : (flagsError e s).tsel = s.tsel := rfl
@[simp] theorem flagsError_rk (e : ErrorKind) (s : State) : (flagsError e s).rk = s.rk := rfl
@[simp] theorem flagsError_sessValid (e : ErrorKind) (s : State) : (flagsError e s).sessValid = s.sessValid := rfl
@[simp] theorem flagsError_h (e : ErrorKind) (s : State) : (flagsError e s).h = s.h := rfl
@[simp] theorem flagsError_j0 (e : ErrorKind) (s : State) : (flagsError e s).j0 = s.j0 := rfl
@[simp] theorem flagsError_tagLen (e : ErrorKind) (s : State) : (flagsError e s).tagLen = s.tagLen := rfl
@[simp] theorem flagsError_busy (e : ErrorKind) (s : State) : (flagsError e s).busy = false := rfl
@[simp] theorem flagsError_done (e : ErrorKind) (s : State) : (flagsError e s).done = s.done := rfl
@[simp] theorem flagsError_err (e : ErrorKind) (s : State) : (flagsError e s).err = true := rfl
@[simp] theorem flagsError_errCode (e : ErrorKind) (s : State) : (flagsError e s).errCode = errorCode e := rfl
@[simp] theorem flagsError_cmdLatch (e : ErrorKind) (s : State) : (flagsError e s).cmdLatch = s.cmdLatch := rfl
@[simp] theorem flagsError_aoff (e : ErrorKind) (s : State) : (flagsError e s).aoff = s.aoff := rfl
@[simp] theorem flagsError_alen (e : ErrorKind) (s : State) : (flagsError e s).alen = s.alen := rfl
@[simp] theorem flagsError_doff (e : ErrorKind) (s : State) : (flagsError e s).doff = s.doff := rfl
@[simp] theorem flagsError_dlen (e : ErrorKind) (s : State) : (flagsError e s).dlen = s.dlen := rfl
@[simp] theorem flagsError_toff (e : ErrorKind) (s : State) : (flagsError e s).toff = s.toff := rfl
@[simp] theorem flagsError_tlen (e : ErrorKind) (s : State) : (flagsError e s).tlen = s.tlen := rfl
@[simp] theorem flagsError_buf (e : ErrorKind) (s : State) : (flagsError e s).buf = s.buf := rfl
@[simp] theorem flagsError_pending (e : ErrorKind) (s : State) : (flagsError e s).pending = s.pending := rfl
@[simp] theorem flagsError_answer (e : ErrorKind) (s : State) : (flagsError e s).answer = s.answer := rfl
@[simp] theorem flagsError_refusedAccess (e : ErrorKind) (s : State) : (flagsError e s).refusedAccess = s.refusedAccess := rfl

/-! ### `accept`: acceptance (R96) -/

@[simp] theorem accept_cfg (w : Word) (s : State) : (accept w s).cfg = s.cfg := rfl
@[simp] theorem accept_keyValid (w : Word) (s : State) : (accept w s).keyValid = s.keyValid := rfl
@[simp] theorem accept_tsel (w : Word) (s : State) : (accept w s).tsel = s.tsel := rfl
@[simp] theorem accept_rk (w : Word) (s : State) : (accept w s).rk = s.rk := rfl
@[simp] theorem accept_sessValid (w : Word) (s : State) : (accept w s).sessValid = s.sessValid := rfl
@[simp] theorem accept_h (w : Word) (s : State) : (accept w s).h = s.h := rfl
@[simp] theorem accept_j0 (w : Word) (s : State) : (accept w s).j0 = s.j0 := rfl
@[simp] theorem accept_tagLen (w : Word) (s : State) : (accept w s).tagLen = s.tagLen := rfl
@[simp] theorem accept_busy (w : Word) (s : State) : (accept w s).busy = true := rfl
@[simp] theorem accept_done (w : Word) (s : State) : (accept w s).done = false := rfl
@[simp] theorem accept_err (w : Word) (s : State) : (accept w s).err = false := rfl
@[simp] theorem accept_errCode (w : Word) (s : State) : (accept w s).errCode = 0x00#8 := rfl
@[simp] theorem accept_cmdLatch (w : Word) (s : State) : (accept w s).cmdLatch = w := rfl
@[simp] theorem accept_aoff (w : Word) (s : State) : (accept w s).aoff = s.aoff := rfl
@[simp] theorem accept_alen (w : Word) (s : State) : (accept w s).alen = s.alen := rfl
@[simp] theorem accept_doff (w : Word) (s : State) : (accept w s).doff = s.doff := rfl
@[simp] theorem accept_dlen (w : Word) (s : State) : (accept w s).dlen = s.dlen := rfl
@[simp] theorem accept_toff (w : Word) (s : State) : (accept w s).toff = s.toff := rfl
@[simp] theorem accept_tlen (w : Word) (s : State) : (accept w s).tlen = s.tlen := rfl
@[simp] theorem accept_buf (w : Word) (s : State) : (accept w s).buf = s.buf := rfl
@[simp] theorem accept_pending (w : Word) (s : State) : (accept w s).pending = s.pending := rfl
@[simp] theorem accept_answer (w : Word) (s : State) : (accept w s).answer = s.answer := rfl
@[simp] theorem accept_refusedAccess (w : Word) (s : State) : (accept w s).refusedAccess = s.refusedAccess := rfl

/-! ### `newInstance`: KEYEXP's writes (R142) -/

@[simp] theorem newInstance_cfg (tt : Bool) (key : Block) (s : State) : (newInstance tt key s).cfg = s.cfg := rfl
@[simp] theorem newInstance_keyValid (tt : Bool) (key : Block) (s : State) : (newInstance tt key s).keyValid = true := rfl
@[simp] theorem newInstance_tsel (tt : Bool) (key : Block) (s : State) : (newInstance tt key s).tsel = tt := rfl
@[simp] theorem newInstance_rk (tt : Bool) (key : Block) (s : State) : (newInstance tt key s).rk = keyExpand key := rfl
@[simp] theorem newInstance_sessValid (tt : Bool) (key : Block) (s : State) : (newInstance tt key s).sessValid = false := rfl
@[simp] theorem newInstance_h (tt : Bool) (key : Block) (s : State) : (newInstance tt key s).h = 0#128 := rfl
@[simp] theorem newInstance_j0 (tt : Bool) (key : Block) (s : State) : (newInstance tt key s).j0 = 0#128 := rfl
@[simp] theorem newInstance_tagLen (tt : Bool) (key : Block) (s : State) : (newInstance tt key s).tagLen = 16#5 := rfl
@[simp] theorem newInstance_busy (tt : Bool) (key : Block) (s : State) : (newInstance tt key s).busy = s.busy := rfl
@[simp] theorem newInstance_done (tt : Bool) (key : Block) (s : State) : (newInstance tt key s).done = s.done := rfl
@[simp] theorem newInstance_err (tt : Bool) (key : Block) (s : State) : (newInstance tt key s).err = s.err := rfl
@[simp] theorem newInstance_errCode (tt : Bool) (key : Block) (s : State) : (newInstance tt key s).errCode = s.errCode := rfl
@[simp] theorem newInstance_cmdLatch (tt : Bool) (key : Block) (s : State) : (newInstance tt key s).cmdLatch = s.cmdLatch := rfl
@[simp] theorem newInstance_aoff (tt : Bool) (key : Block) (s : State) : (newInstance tt key s).aoff = s.aoff := rfl
@[simp] theorem newInstance_alen (tt : Bool) (key : Block) (s : State) : (newInstance tt key s).alen = s.alen := rfl
@[simp] theorem newInstance_doff (tt : Bool) (key : Block) (s : State) : (newInstance tt key s).doff = s.doff := rfl
@[simp] theorem newInstance_dlen (tt : Bool) (key : Block) (s : State) : (newInstance tt key s).dlen = s.dlen := rfl
@[simp] theorem newInstance_toff (tt : Bool) (key : Block) (s : State) : (newInstance tt key s).toff = s.toff := rfl
@[simp] theorem newInstance_tlen (tt : Bool) (key : Block) (s : State) : (newInstance tt key s).tlen = s.tlen := rfl
@[simp] theorem newInstance_buf (tt : Bool) (key : Block) (s : State) : (newInstance tt key s).buf = s.buf := rfl
@[simp] theorem newInstance_pending (tt : Bool) (key : Block) (s : State) : (newInstance tt key s).pending = s.pending := rfl
@[simp] theorem newInstance_answer (tt : Bool) (key : Block) (s : State) : (newInstance tt key s).answer = s.answer := rfl
@[simp] theorem newInstance_refusedAccess (tt : Bool) (key : Block) (s : State) : (newInstance tt key s).refusedAccess = s.refusedAccess := rfl

/-! ### `newSession`: GCMINIT's writes (R246) -/

@[simp] theorem newSession_cfg (tl : BitVec 8) (nonce : List Byte) (s : State) : (newSession tl nonce s).cfg = s.cfg := rfl
@[simp] theorem newSession_keyValid (tl : BitVec 8) (nonce : List Byte) (s : State) : (newSession tl nonce s).keyValid = s.keyValid := rfl
@[simp] theorem newSession_tsel (tl : BitVec 8) (nonce : List Byte) (s : State) : (newSession tl nonce s).tsel = s.tsel := rfl
@[simp] theorem newSession_rk (tl : BitVec 8) (nonce : List Byte) (s : State) : (newSession tl nonce s).rk = s.rk := rfl
@[simp] theorem newSession_sessValid (tl : BitVec 8) (nonce : List Byte) (s : State) : (newSession tl nonce s).sessValid = true := rfl
@[simp] theorem newSession_h (tl : BitVec 8) (nonce : List Byte) (s : State) : (newSession tl nonce s).h = encryptBlock s 0#128 := rfl
@[simp] theorem newSession_j0 (tl : BitVec 8) (nonce : List Byte) (s : State) : (newSession tl nonce s).j0 = deriveJ0 (encryptBlock s 0#128) nonce := rfl
@[simp] theorem newSession_tagLen (tl : BitVec 8) (nonce : List Byte) (s : State) : (newSession tl nonce s).tagLen = configuredTagLen tl := rfl
@[simp] theorem newSession_busy (tl : BitVec 8) (nonce : List Byte) (s : State) : (newSession tl nonce s).busy = s.busy := rfl
@[simp] theorem newSession_done (tl : BitVec 8) (nonce : List Byte) (s : State) : (newSession tl nonce s).done = s.done := rfl
@[simp] theorem newSession_err (tl : BitVec 8) (nonce : List Byte) (s : State) : (newSession tl nonce s).err = s.err := rfl
@[simp] theorem newSession_errCode (tl : BitVec 8) (nonce : List Byte) (s : State) : (newSession tl nonce s).errCode = s.errCode := rfl
@[simp] theorem newSession_cmdLatch (tl : BitVec 8) (nonce : List Byte) (s : State) : (newSession tl nonce s).cmdLatch = s.cmdLatch := rfl
@[simp] theorem newSession_aoff (tl : BitVec 8) (nonce : List Byte) (s : State) : (newSession tl nonce s).aoff = s.aoff := rfl
@[simp] theorem newSession_alen (tl : BitVec 8) (nonce : List Byte) (s : State) : (newSession tl nonce s).alen = s.alen := rfl
@[simp] theorem newSession_doff (tl : BitVec 8) (nonce : List Byte) (s : State) : (newSession tl nonce s).doff = s.doff := rfl
@[simp] theorem newSession_dlen (tl : BitVec 8) (nonce : List Byte) (s : State) : (newSession tl nonce s).dlen = s.dlen := rfl
@[simp] theorem newSession_toff (tl : BitVec 8) (nonce : List Byte) (s : State) : (newSession tl nonce s).toff = s.toff := rfl
@[simp] theorem newSession_tlen (tl : BitVec 8) (nonce : List Byte) (s : State) : (newSession tl nonce s).tlen = s.tlen := rfl
@[simp] theorem newSession_buf (tl : BitVec 8) (nonce : List Byte) (s : State) : (newSession tl nonce s).buf = s.buf := rfl
@[simp] theorem newSession_pending (tl : BitVec 8) (nonce : List Byte) (s : State) : (newSession tl nonce s).pending = s.pending := rfl
@[simp] theorem newSession_answer (tl : BitVec 8) (nonce : List Byte) (s : State) : (newSession tl nonce s).answer = s.answer := rfl
@[simp] theorem newSession_refusedAccess (tl : BitVec 8) (nonce : List Byte) (s : State) : (newSession tl nonce s).refusedAccess = s.refusedAccess := rfl

/-! ### `recordAnswer`: the record of a transaction (log entries 6, 7) -/

@[simp] theorem recordAnswer_cfg (a : PortAnswer) (r : Resp) (s : State) : (recordAnswer a r s).cfg = s.cfg := rfl
@[simp] theorem recordAnswer_keyValid (a : PortAnswer) (r : Resp) (s : State) : (recordAnswer a r s).keyValid = s.keyValid := rfl
@[simp] theorem recordAnswer_tsel (a : PortAnswer) (r : Resp) (s : State) : (recordAnswer a r s).tsel = s.tsel := rfl
@[simp] theorem recordAnswer_rk (a : PortAnswer) (r : Resp) (s : State) : (recordAnswer a r s).rk = s.rk := rfl
@[simp] theorem recordAnswer_sessValid (a : PortAnswer) (r : Resp) (s : State) : (recordAnswer a r s).sessValid = s.sessValid := rfl
@[simp] theorem recordAnswer_h (a : PortAnswer) (r : Resp) (s : State) : (recordAnswer a r s).h = s.h := rfl
@[simp] theorem recordAnswer_j0 (a : PortAnswer) (r : Resp) (s : State) : (recordAnswer a r s).j0 = s.j0 := rfl
@[simp] theorem recordAnswer_tagLen (a : PortAnswer) (r : Resp) (s : State) : (recordAnswer a r s).tagLen = s.tagLen := rfl
@[simp] theorem recordAnswer_busy (a : PortAnswer) (r : Resp) (s : State) : (recordAnswer a r s).busy = s.busy := rfl
@[simp] theorem recordAnswer_done (a : PortAnswer) (r : Resp) (s : State) : (recordAnswer a r s).done = s.done := rfl
@[simp] theorem recordAnswer_err (a : PortAnswer) (r : Resp) (s : State) : (recordAnswer a r s).err = s.err := rfl
@[simp] theorem recordAnswer_errCode (a : PortAnswer) (r : Resp) (s : State) : (recordAnswer a r s).errCode = s.errCode := rfl
@[simp] theorem recordAnswer_cmdLatch (a : PortAnswer) (r : Resp) (s : State) : (recordAnswer a r s).cmdLatch = s.cmdLatch := rfl
@[simp] theorem recordAnswer_aoff (a : PortAnswer) (r : Resp) (s : State) : (recordAnswer a r s).aoff = s.aoff := rfl
@[simp] theorem recordAnswer_alen (a : PortAnswer) (r : Resp) (s : State) : (recordAnswer a r s).alen = s.alen := rfl
@[simp] theorem recordAnswer_doff (a : PortAnswer) (r : Resp) (s : State) : (recordAnswer a r s).doff = s.doff := rfl
@[simp] theorem recordAnswer_dlen (a : PortAnswer) (r : Resp) (s : State) : (recordAnswer a r s).dlen = s.dlen := rfl
@[simp] theorem recordAnswer_toff (a : PortAnswer) (r : Resp) (s : State) : (recordAnswer a r s).toff = s.toff := rfl
@[simp] theorem recordAnswer_tlen (a : PortAnswer) (r : Resp) (s : State) : (recordAnswer a r s).tlen = s.tlen := rfl
@[simp] theorem recordAnswer_buf (a : PortAnswer) (r : Resp) (s : State) : (recordAnswer a r s).buf = s.buf := rfl
@[simp] theorem recordAnswer_pending (a : PortAnswer) (r : Resp) (s : State) : (recordAnswer a r s).pending = s.pending := rfl
@[simp] theorem recordAnswer_answer (a : PortAnswer) (r : Resp) (s : State) : (recordAnswer a r s).answer = some a := rfl
@[simp] theorem recordAnswer_refusedAccess (a : PortAnswer) (r : Resp) (s : State) : (recordAnswer a r s).refusedAccess = (s.refusedAccess || (r == .error)) := rfl

/-! ### `resetEvent`: reset (R320, R323) -/

@[simp] theorem resetEvent_cfg (s : State) : (resetEvent s).cfg = s.cfg := rfl
@[simp] theorem resetEvent_keyValid (s : State) : (resetEvent s).keyValid = false := rfl
@[simp] theorem resetEvent_tsel (s : State) : (resetEvent s).tsel = false := rfl
@[simp] theorem resetEvent_rk (s : State) : (resetEvent s).rk = Vector.replicate 32 0x00000000#32 := rfl
@[simp] theorem resetEvent_sessValid (s : State) : (resetEvent s).sessValid = false := rfl
@[simp] theorem resetEvent_h (s : State) : (resetEvent s).h = 0#128 := rfl
@[simp] theorem resetEvent_j0 (s : State) : (resetEvent s).j0 = 0#128 := rfl
@[simp] theorem resetEvent_tagLen (s : State) : (resetEvent s).tagLen = 16#5 := rfl
@[simp] theorem resetEvent_busy (s : State) : (resetEvent s).busy = false := rfl
@[simp] theorem resetEvent_done (s : State) : (resetEvent s).done = false := rfl
@[simp] theorem resetEvent_err (s : State) : (resetEvent s).err = false := rfl
@[simp] theorem resetEvent_errCode (s : State) : (resetEvent s).errCode = 0x00#8 := rfl
@[simp] theorem resetEvent_cmdLatch (s : State) : (resetEvent s).cmdLatch = 0#32 := rfl
@[simp] theorem resetEvent_aoff (s : State) : (resetEvent s).aoff = 0#32 := rfl
@[simp] theorem resetEvent_alen (s : State) : (resetEvent s).alen = 0#32 := rfl
@[simp] theorem resetEvent_doff (s : State) : (resetEvent s).doff = 0#32 := rfl
@[simp] theorem resetEvent_dlen (s : State) : (resetEvent s).dlen = 0#32 := rfl
@[simp] theorem resetEvent_toff (s : State) : (resetEvent s).toff = 0#32 := rfl
@[simp] theorem resetEvent_tlen (s : State) : (resetEvent s).tlen = 0#32 := rfl
@[simp] theorem resetEvent_buf (s : State) : (resetEvent s).buf = s.buf := rfl
@[simp] theorem resetEvent_pending (s : State) : (resetEvent s).pending = s.pending := rfl
@[simp] theorem resetEvent_answer (s : State) : (resetEvent s).answer = s.answer := rfl
@[simp] theorem resetEvent_refusedAccess (s : State) : (resetEvent s).refusedAccess = s.refusedAccess := rfl

/-! ### `operand`: which field an operand register is (R32) -/

@[simp] theorem operand_aoff (s : State) : operand s .aoff = s.aoff := rfl
@[simp] theorem operand_alen (s : State) : operand s .alen = s.alen := rfl
@[simp] theorem operand_doff (s : State) : operand s .doff = s.doff := rfl
@[simp] theorem operand_dlen (s : State) : operand s .dlen = s.dlen := rfl
@[simp] theorem operand_toff (s : State) : operand s .toff = s.toff := rfl
@[simp] theorem operand_tlen (s : State) : operand s .tlen = s.tlen := rfl

/-! ### `setOperand`: a write to an operand register (R32) changes that register only -/

@[simp] theorem setOperand_cfg (s : State) (r : OperReg) (v : Word) : (setOperand s r v).cfg = s.cfg := by
  cases r <;> rfl
@[simp] theorem setOperand_keyValid (s : State) (r : OperReg) (v : Word) : (setOperand s r v).keyValid = s.keyValid := by
  cases r <;> rfl
@[simp] theorem setOperand_tsel (s : State) (r : OperReg) (v : Word) : (setOperand s r v).tsel = s.tsel := by
  cases r <;> rfl
@[simp] theorem setOperand_rk (s : State) (r : OperReg) (v : Word) : (setOperand s r v).rk = s.rk := by
  cases r <;> rfl
@[simp] theorem setOperand_sessValid (s : State) (r : OperReg) (v : Word) : (setOperand s r v).sessValid = s.sessValid := by
  cases r <;> rfl
@[simp] theorem setOperand_h (s : State) (r : OperReg) (v : Word) : (setOperand s r v).h = s.h := by
  cases r <;> rfl
@[simp] theorem setOperand_j0 (s : State) (r : OperReg) (v : Word) : (setOperand s r v).j0 = s.j0 := by
  cases r <;> rfl
@[simp] theorem setOperand_tagLen (s : State) (r : OperReg) (v : Word) : (setOperand s r v).tagLen = s.tagLen := by
  cases r <;> rfl
@[simp] theorem setOperand_busy (s : State) (r : OperReg) (v : Word) : (setOperand s r v).busy = s.busy := by
  cases r <;> rfl
@[simp] theorem setOperand_done (s : State) (r : OperReg) (v : Word) : (setOperand s r v).done = s.done := by
  cases r <;> rfl
@[simp] theorem setOperand_err (s : State) (r : OperReg) (v : Word) : (setOperand s r v).err = s.err := by
  cases r <;> rfl
@[simp] theorem setOperand_errCode (s : State) (r : OperReg) (v : Word) : (setOperand s r v).errCode = s.errCode := by
  cases r <;> rfl
@[simp] theorem setOperand_cmdLatch (s : State) (r : OperReg) (v : Word) : (setOperand s r v).cmdLatch = s.cmdLatch := by
  cases r <;> rfl
theorem setOperand_aoff (s : State) (r : OperReg) (v : Word) :
    (setOperand s r v).aoff = if r = .aoff then v else s.aoff := by cases r <;> rfl
theorem setOperand_alen (s : State) (r : OperReg) (v : Word) :
    (setOperand s r v).alen = if r = .alen then v else s.alen := by cases r <;> rfl
theorem setOperand_doff (s : State) (r : OperReg) (v : Word) :
    (setOperand s r v).doff = if r = .doff then v else s.doff := by cases r <;> rfl
theorem setOperand_dlen (s : State) (r : OperReg) (v : Word) :
    (setOperand s r v).dlen = if r = .dlen then v else s.dlen := by cases r <;> rfl
theorem setOperand_toff (s : State) (r : OperReg) (v : Word) :
    (setOperand s r v).toff = if r = .toff then v else s.toff := by cases r <;> rfl
theorem setOperand_tlen (s : State) (r : OperReg) (v : Word) :
    (setOperand s r v).tlen = if r = .tlen then v else s.tlen := by cases r <;> rfl
@[simp] theorem setOperand_buf (s : State) (r : OperReg) (v : Word) : (setOperand s r v).buf = s.buf := by
  cases r <;> rfl
@[simp] theorem setOperand_pending (s : State) (r : OperReg) (v : Word) : (setOperand s r v).pending = s.pending := by
  cases r <;> rfl
@[simp] theorem setOperand_answer (s : State) (r : OperReg) (v : Word) : (setOperand s r v).answer = s.answer := by
  cases r <;> rfl
@[simp] theorem setOperand_refusedAccess (s : State) (r : OperReg) (v : Word) : (setOperand s r v).refusedAccess = s.refusedAccess := by
  cases r <;> rfl

/-- An operand register reads back what was written to it, every other one keeps its value (R32). -/
theorem operand_setOperand (s : State) (r q : OperReg) (v : Word) :
    operand (setOperand s r v) q = if q = r then v else operand s q := by
  cases r <;> cases q <;> rfl

end Sys2Proof.Machine
end

