-- ==== Sys2Proof/Laws/Ops.lean ====
section
/-! SUPPORT. For each operation that the commands share, one lemma that says once everything it can do. -/

namespace Sys2Proof.Machine

/-! ### Completion -/

/-- An error completes with the flags of the error and nothing else (`60_exceptions.md` R284). -/
@[simp] theorem raise_next (e : ErrorKind) (s t : State) : raise e s = .next t ↔ t = flagsError e s := by
  simp [raise, eq_comm]

/-- Success completes with the flags of success on the state it is given (`30_encoding.md` R97). -/
@[simp] theorem succeed_next (s t : State) : succeed s = .next t ↔ t = flagsDone s := by
  simp [succeed, eq_comm]

/-! ### Buffer accesses -/

/-- Inside the buffer a read hands on the bytes (`20_memory.md` R72). -/
theorem memRead_inside {r : Range} {s : State} (k : List Byte → Result) (h : r.inside s.cfg) :
    memRead r s k = k (Memory.bytes s.buf r.off r.len) := if_pos h

/-- Everything a read can do: it answers only inside the buffer, and then as its continuation. -/
theorem memRead_next {r : Range} {s t : State} {k : List Byte → Result} (h : memRead r s k = .next t) :
    r.inside s.cfg ∧ k (Memory.bytes s.buf r.off r.len) = .next t := by
  unfold memRead at h
  split at h
  · next hr => exact ⟨hr, h⟩
  · cases h

/-- Inside the buffer a write hands on the state with the bytes stored (`20_memory.md` R73). -/
theorem memWrite_inside {off : Nat} {bs : List Byte} {s : State} (k : State → Result)
    (h : off + bs.length ≤ s.cfg.bufBytes) :
    memWrite off bs s k = k { s with buf := Memory.storeBytes s.buf off bs } := if_pos h

/-- Everything a write can do: it answers only inside the buffer, and then as its continuation. -/
theorem memWrite_next {off : Nat} {bs : List Byte} {s t : State} {k : State → Result}
    (h : memWrite off bs s k = .next t) :
    off + bs.length ≤ s.cfg.bufBytes ∧ k { s with buf := Memory.storeBytes s.buf off bs } = .next t := by
  unfold memWrite at h
  split at h
  · next hr => exact ⟨hr, h⟩
  · cases h

/-- Everything the in-place block commands can do (`42_block_cipher.md` R166, R167). -/
theorem blockInPlace_next {f : Block → Block} {s t : State} (h : blockInPlace f s = .next t) :
    (∃ e, t = flagsError e s) ∨
    (s.keyValid = true ∧ s.dlen.toNat = 16 ∧ (rangeD s).inside s.cfg ∧
      t = flagsDone { s with
        buf := Memory.storeBytes s.buf (rangeD s).off
          (bytes128 (f (be128 (Memory.bytes s.buf (rangeD s).off (rangeD s).len)))) }) := by
  unfold blockInPlace at h
  split at h
  · exact .inl ⟨_, (raise_next ..).mp h⟩
  · next hk =>
    split at h
    · exact .inl ⟨_, (raise_next ..).mp h⟩
    · next hl =>
      split at h
      · exact .inl ⟨_, (raise_next ..).mp h⟩
      · next hr =>
        obtain ⟨-, h⟩ := memRead_next h
        obtain ⟨-, h⟩ := memWrite_next h
        exact .inr ⟨by simpa using hk, by omega, by omega, (succeed_next ..).mp h⟩

/-! ### Operands -/

@[simp] theorem rangeA_off (s : State) : (rangeA s).off = s.aoff.toNat := rfl
@[simp] theorem rangeA_len (s : State) : (rangeA s).len = s.alen.toNat := rfl
@[simp] theorem rangeD_off (s : State) : (rangeD s).off = s.doff.toNat := rfl
@[simp] theorem rangeD_len (s : State) : (rangeD s).len = s.dlen.toNat := rfl
@[simp] theorem rangeT_off (s : State) : (rangeT s).off = s.toff.toNat := rfl
@[simp] theorem rangeT_len (s : State) : (rangeT s).len = s.tlen.toNat := rfl
@[simp] theorem rangeT16_off (s : State) : (rangeT16 s).off = s.toff.toNat := rfl
@[simp] theorem rangeT16_len (s : State) : (rangeT16 s).len = 16 := rfl
@[simp] theorem rangeTag_off (s : State) : (rangeTag s).off = s.toff.toNat := rfl
@[simp] theorem rangeTag_len (s : State) : (rangeTag s).len = s.tagLen.toNat := rfl

/-- Ranges that do not overlap share no byte (`20_memory.md` R75). -/
theorem not_covers_of_apart {r q : Range} (h : ¬ r.overlaps q) {o : Nat} (hr : r.covers o) : ¬ q.covers o := by
  intro hq
  exact h ⟨by omega, by omega, by omega, by omega⟩

/-- Overlap is symmetric (`20_memory.md` R75). -/
theorem overlaps_comm (r q : Range) : r.overlaps q ↔ q.overlaps r := by
  constructor <;> rintro ⟨h1, h2, h3, h4⟩ <;> exact ⟨h2, h1, h4, h3⟩

end Sys2Proof.Machine
end

