-- ==== Sys2Proof/Laws/Commands.lean ====
section
/-! SUPPORT. For each command one lemma that says once everything it can do: an error with no write of the command,
or its effect, and then what its checks have found. -/

namespace Sys2Proof.Machine

/-! ### Lengths of what the commands write -/

@[simp] theorem ctrBytes_length (s : State) (icb : Block) (d : List Byte) :
    (ctrBytes s icb d).length = d.length := ctrMode_length _ _ _ _

/-- A session tag has `TAGLEN` bytes, for the legal lengths (`46_gcm.md` R243). -/
theorem sessionTag_length {s : State} (a c : List Byte) (h : s.tagLen.toNat ≤ 16) :
    (sessionTag s a c).length = s.tagLen.toNat := gcmTag_length _ _ _ _ _ _ _ h

/-- In every state it has at most `TAGLEN` bytes. -/
theorem sessionTag_length_le (s : State) (a c : List Byte) :
    (sessionTag s a c).length ≤ s.tagLen.toNat := by
  simp only [sessionTag, gcmTag, List.length_take]
  omega

/-! ### The commands -/

/-- `41_key_schedule.md` R142. -/
theorem execKeyexp_cases (tt : Bool) (s : State) :
    (∃ e, execKeyexp tt s = raise e s) ∨
    (s.alen.toNat = 16 ∧ (rangeA s).inside s.cfg ∧
      execKeyexp tt s =
        succeed (newInstance tt (be128 (Memory.bytes s.buf s.aoff.toNat s.alen.toNat)) s)) := by
  unfold execKeyexp
  by_cases h1 : s.alen.toNat = 16
  · by_cases h2 : (rangeA s).inside s.cfg
    · rw [if_neg (not_not.mpr h1), if_neg (not_not.mpr h2), memRead_inside _ h2]
      exact .inr ⟨h1, h2, rfl⟩
    · rw [if_neg (not_not.mpr h1), if_pos h2]
      exact .inl ⟨_, rfl⟩
  · rw [if_pos h1]
    exact .inl ⟨_, rfl⟩

/-- `42_block_cipher.md` R166, R167. -/
theorem blockInPlace_cases (f : Block → Block) (s : State) :
    (∃ e, blockInPlace f s = raise e s) ∨
    (s.keyValid = true ∧ s.dlen.toNat = 16 ∧ (rangeD s).inside s.cfg ∧
      blockInPlace f s =
        succeed { s with
          buf := Memory.storeBytes s.buf s.doff.toNat
            (bytes128 (f (be128 (Memory.bytes s.buf s.doff.toNat s.dlen.toNat)))) }) := by
  unfold blockInPlace
  by_cases h0 : s.keyValid = true
  · by_cases h1 : s.dlen.toNat = 16
    · by_cases h2 : (rangeD s).inside s.cfg
      · have h3 : s.doff.toNat + s.dlen.toNat ≤ s.cfg.bufBytes := h2
        rw [if_neg (by simp [h0]), if_neg (not_not.mpr h1), if_neg (not_not.mpr h2), memRead_inside _ h2,
          memWrite_inside _ (by rw [bytes128_length, rangeD_off]; omega)]
        exact .inr ⟨h0, h1, h2, rfl⟩
      · rw [if_neg (by simp [h0]), if_neg (not_not.mpr h1), if_pos h2]
        exact .inl ⟨_, rfl⟩
    · rw [if_neg (by simp [h0]), if_pos h1]
      exact .inl ⟨_, rfl⟩
  · rw [if_pos (by simpa using h0)]
    exact .inl ⟨_, rfl⟩

/-- `44_ghash.md` R200. -/
theorem execGfmul_cases (s : State) :
    (∃ e, execGfmul s = raise e s) ∨
    (s.alen.toNat = 16 ∧ s.dlen.toNat = 16 ∧ (rangeA s).inside s.cfg ∧ (rangeD s).inside s.cfg ∧
      (rangeT16 s).inside s.cfg ∧ ¬ (rangeT16 s).overlaps (rangeA s) ∧
      ¬ (rangeT16 s).overlaps (rangeD s) ∧
      execGfmul s =
        succeed { s with
          buf := Memory.storeBytes s.buf s.toff.toNat
            (bytes128 (gfmul (be128 (Memory.bytes s.buf s.aoff.toNat s.alen.toNat))
              (be128 (Memory.bytes s.buf s.doff.toNat s.dlen.toNat)))) }) := by
  unfold execGfmul
  by_cases h1 : s.alen.toNat ≠ 16 ∨ s.dlen.toNat ≠ 16
  · rw [if_pos h1]
    exact .inl ⟨_, rfl⟩
  by_cases h2 : ¬ (rangeA s).inside s.cfg ∨ ¬ (rangeD s).inside s.cfg ∨ ¬ (rangeT16 s).inside s.cfg
  · rw [if_neg h1, if_pos h2]
    exact .inl ⟨_, rfl⟩
  by_cases h3 : (rangeT16 s).overlaps (rangeA s) ∨ (rangeT16 s).overlaps (rangeD s)
  · rw [if_neg h1, if_neg h2, if_pos h3]
    exact .inl ⟨_, rfl⟩
  rw [if_neg h1, if_neg h2, if_neg h3]
  simp only [not_or, not_not, ne_eq] at h1 h2 h3
  rw [memRead_inside _ h2.1, memRead_inside _ h2.2.1,
    memWrite_inside _ (by rw [bytes128_length]; exact h2.2.2)]
  exact .inr ⟨h1.1, h1.2, h2.1, h2.2.1, h2.2.2, h3.1, h3.2, rfl⟩

/-- `44_ghash.md` R201. -/
theorem execGhash_cases (s : State) :
    (∃ e, execGhash s = raise e s) ∨
    (s.sessValid = true ∧ (rangeA s).inside s.cfg ∧ (rangeD s).inside s.cfg ∧
      (rangeT16 s).inside s.cfg ∧ ¬ (rangeT16 s).overlaps (rangeA s) ∧
      ¬ (rangeT16 s).overlaps (rangeD s) ∧
      execGhash s =
        succeed { s with
          buf := Memory.storeBytes s.buf s.toff.toNat
            (bytes128 (ghash s.h (Memory.bytes s.buf s.aoff.toNat s.alen.toNat)
              (Memory.bytes s.buf s.doff.toNat s.dlen.toNat))) }) := by
  unfold execGhash
  by_cases h1 : s.sessValid = false
  · rw [if_pos h1]
    exact .inl ⟨_, rfl⟩
  by_cases h2 : ¬ (rangeA s).inside s.cfg ∨ ¬ (rangeD s).inside s.cfg ∨ ¬ (rangeT16 s).inside s.cfg
  · rw [if_neg h1, if_pos h2]
    exact .inl ⟨_, rfl⟩
  by_cases h3 : (rangeT16 s).overlaps (rangeA s) ∨ (rangeT16 s).overlaps (rangeD s)
  · rw [if_neg h1, if_neg h2, if_pos h3]
    exact .inl ⟨_, rfl⟩
  rw [if_neg h1, if_neg h2, if_neg h3]
  simp only [not_or, not_not] at h2 h3
  rw [memRead_inside _ h2.1, memRead_inside _ h2.2.1,
    memWrite_inside _ (by rw [bytes128_length]; exact h2.2.2)]
  exact .inr ⟨by simpa using h1, h2.1, h2.2.1, h2.2.2, h3.1, h3.2, rfl⟩

/-- `45_ctr.md` R224. -/
theorem execCtr_cases (s : State) :
    (∃ e, execCtr s = raise e s) ∨
    (s.keyValid = true ∧ s.alen.toNat = 16 ∧ (rangeA s).inside s.cfg ∧ (rangeD s).inside s.cfg ∧
      ¬ (rangeD s).overlaps (rangeA s) ∧
      execCtr s =
        succeed { s with
          buf := Memory.storeBytes s.buf s.doff.toNat
            (ctrBytes s (be128 (Memory.bytes s.buf s.aoff.toNat s.alen.toNat))
              (Memory.bytes s.buf s.doff.toNat s.dlen.toNat)) }) := by
  unfold execCtr
  by_cases h0 : s.keyValid = false
  · rw [if_pos h0]
    exact .inl ⟨_, rfl⟩
  by_cases h1 : s.alen.toNat ≠ 16
  · rw [if_neg h0, if_pos h1]
    exact .inl ⟨_, rfl⟩
  by_cases h2 : ¬ (rangeA s).inside s.cfg ∨ ¬ (rangeD s).inside s.cfg
  · rw [if_neg h0, if_neg h1, if_pos h2]
    exact .inl ⟨_, rfl⟩
  by_cases h3 : (rangeD s).overlaps (rangeA s)
  · rw [if_neg h0, if_neg h1, if_neg h2, if_pos h3]
    exact .inl ⟨_, rfl⟩
  rw [if_neg h0, if_neg h1, if_neg h2, if_neg h3]
  simp only [not_or, not_not, ne_eq] at h1 h2
  rw [memRead_inside _ h2.1, memRead_inside _ h2.2,
    memWrite_inside _ (by rw [ctrBytes_length, bytes_length]; exact h2.2)]
  exact .inr ⟨by simpa using h0, h1, h2.1, h2.2, h3, rfl⟩

/-- `46_gcm.md` R246. -/
theorem execGcminit_cases (tl : BitVec 8) (s : State) :
    (∃ e, execGcminit tl s = raise e s) ∨
    (tl.toNat ≤ 16 ∧ s.keyValid = true ∧ (rangeA s).inside s.cfg ∧
      execGcminit tl s = succeed (newSession tl (Memory.bytes s.buf s.aoff.toNat s.alen.toNat) s)) := by
  unfold execGcminit
  by_cases h1 : tl.toNat > 16
  · rw [if_pos h1]
    exact .inl ⟨_, rfl⟩
  by_cases h0 : s.keyValid = false
  · rw [if_neg h1, if_pos h0]
    exact .inl ⟨_, rfl⟩
  by_cases h2 : (rangeA s).inside s.cfg
  · rw [if_neg h1, if_neg h0, if_neg (not_not.mpr h2), memRead_inside _ h2]
    exact .inr ⟨by omega, by simpa using h0, h2, rfl⟩
  · rw [if_neg h1, if_neg h0, if_pos h2]
    exact .inl ⟨_, rfl⟩

/-- `46_gcm.md` R247. -/
theorem execGcmenc_cases (s : State) :
    (∃ e, execGcmenc s = raise e s) ∨
    (s.sessValid = true ∧ (rangeA s).inside s.cfg ∧ (rangeD s).inside s.cfg ∧
      (rangeTag s).inside s.cfg ∧ ¬ (rangeD s).overlaps (rangeA s) ∧
      ¬ (rangeTag s).overlaps (rangeA s) ∧ ¬ (rangeTag s).overlaps (rangeD s) ∧
      execGcmenc s =
        succeed { s with
          buf := Memory.storeBytes
            (Memory.storeBytes s.buf s.doff.toNat
              (ctrBytes s s.j0 (Memory.bytes s.buf s.doff.toNat s.dlen.toNat)))
            s.toff.toNat
            (sessionTag s (Memory.bytes s.buf s.aoff.toNat s.alen.toNat)
              (ctrBytes s s.j0 (Memory.bytes s.buf s.doff.toNat s.dlen.toNat))) }) := by
  unfold execGcmenc
  by_cases h1 : s.sessValid = false
  · rw [if_pos h1]
    exact .inl ⟨_, rfl⟩
  by_cases h2 : ¬ (rangeA s).inside s.cfg ∨ ¬ (rangeD s).inside s.cfg ∨ ¬ (rangeTag s).inside s.cfg
  · rw [if_neg h1, if_pos h2]
    exact .inl ⟨_, rfl⟩
  by_cases h3 : (rangeD s).overlaps (rangeA s) ∨ (rangeTag s).overlaps (rangeA s)
      ∨ (rangeTag s).overlaps (rangeD s)
  · rw [if_neg h1, if_neg h2, if_pos h3]
    exact .inl ⟨_, rfl⟩
  rw [if_neg h1, if_neg h2, if_neg h3]
  simp only [not_or, not_not] at h2 h3
  have hl := sessionTag_length_le s (Memory.bytes s.buf s.aoff.toNat s.alen.toNat)
    (ctrBytes s s.j0 (Memory.bytes s.buf s.doff.toNat s.dlen.toNat))
  rw [memRead_inside _ h2.1, memRead_inside _ h2.2.1,
    memWrite_inside _ (by rw [ctrBytes_length, bytes_length]; exact h2.2.1)]
  refine .inr ⟨by simpa using h1, h2.1, h2.2.1, h2.2.2, h3.1, h3.2.1, h3.2.2, ?_⟩
  exact memWrite_inside (s := { s with
    buf := Memory.storeBytes s.buf s.doff.toNat
      (ctrBytes s s.j0 (Memory.bytes s.buf s.doff.toNat s.dlen.toNat)) }) succeed
    (Nat.le_trans (Nat.add_le_add_left hl _) h2.2.2)

/-- `46_gcm.md` R248. -/
theorem execGcmdec_cases (s : State) :
    (∃ e, execGcmdec s = raise e s) ∨
    (s.sessValid = true ∧ s.tlen.toNat = s.tagLen.toNat ∧ (rangeA s).inside s.cfg ∧
      (rangeD s).inside s.cfg ∧ (rangeT s).inside s.cfg ∧ ¬ (rangeD s).overlaps (rangeA s) ∧
      ¬ (rangeD s).overlaps (rangeT s) ∧
      tagEqual (sessionTag s (Memory.bytes s.buf s.aoff.toNat s.alen.toNat)
        (Memory.bytes s.buf s.doff.toNat s.dlen.toNat))
        (Memory.bytes s.buf s.toff.toNat s.tlen.toNat) = true ∧
      execGcmdec s =
        succeed { s with
          buf := Memory.storeBytes s.buf s.doff.toNat
            (ctrBytes s s.j0 (Memory.bytes s.buf s.doff.toNat s.dlen.toNat)) }) := by
  unfold execGcmdec
  by_cases h0 : s.sessValid = false
  · rw [if_pos h0]
    exact .inl ⟨_, rfl⟩
  by_cases h1 : s.tlen.toNat ≠ s.tagLen.toNat
  · rw [if_neg h0, if_pos h1]
    exact .inl ⟨_, rfl⟩
  by_cases h2 : ¬ (rangeA s).inside s.cfg ∨ ¬ (rangeD s).inside s.cfg ∨ ¬ (rangeT s).inside s.cfg
  · rw [if_neg h0, if_neg h1, if_pos h2]
    exact .inl ⟨_, rfl⟩
  by_cases h3 : (rangeD s).overlaps (rangeA s) ∨ (rangeD s).overlaps (rangeT s)
  · rw [if_neg h0, if_neg h1, if_neg h2, if_pos h3]
    exact .inl ⟨_, rfl⟩
  rw [if_neg h0, if_neg h1, if_neg h2, if_neg h3]
  simp only [not_or, not_not, ne_eq] at h1 h2 h3
  rw [memRead_inside _ h2.1, memRead_inside _ h2.2.1, memRead_inside _ h2.2.2]
  by_cases h4 : tagEqual (sessionTag s (Memory.bytes s.buf s.aoff.toNat s.alen.toNat)
      (Memory.bytes s.buf s.doff.toNat s.dlen.toNat))
      (Memory.bytes s.buf s.toff.toNat s.tlen.toNat) = false
  · exact .inl ⟨_, if_pos h4⟩
  · refine .inr ⟨by simpa using h0, h1, h2.1, h2.2.1, h2.2.2, h3.1, h3.2, by simpa using h4, ?_⟩
    refine (if_neg h4).trans ?_
    exact memWrite_inside _ (by rw [ctrBytes_length, bytes_length]; exact h2.2.1)

end Sys2Proof.Machine
end

