-- ==== Sys2Proof/Laws/PerInstr.lean ====
section
/-! SUPPORT. A statement for every command: its word holds the fields of the format (`30_encoding.md` R90). -/

namespace Sys2Proof

/-- The fields of a word put together from its parts are those parts. -/
theorem fields_commandWord (arg opc : BitVec 8) :
    fieldRsv (commandWord arg opc) = 0#16 ∧ fieldOpc (commandWord arg opc) = opc ∧
      fieldArg (commandWord arg opc) = arg := by
  refine ⟨?_, ?_, ?_⟩ <;>
  · apply BitVec.eq_of_getLsbD_eq
    intro i hi
    simp only [fieldRsv, fieldOpc, fieldArg, commandWord, BitVec.getLsbD_extractLsb',
      BitVec.getLsbD_append, hi, decide_true, Bool.true_and]
    try simp only [show ¬ 16 + i < 8 by omega, show ¬ 16 + i - 8 < 8 by omega, if_false,
      BitVec.getLsbD_zero]
    try simp only [show ¬ 8 + i < 8 by omega,
      show 8 + i - 8 = i by omega, if_false]
    try simp [hi]

/-- The word of a command has `RSV = 0`, the command's `OPC` and its `ARG` (R90, R91, R92). -/
def Laws.EncodedFields.Statement (i : Instr) : Prop :=
  fieldRsv (encode i) = 0x0000#16 ∧ fieldOpc (encode i) = opcode i ∧ fieldArg (encode i) = argument i

theorem Laws.EncodedFields.keyexp (tt : Bool) : Laws.EncodedFields.Statement (.keyexp tt) :=
  fields_commandWord _ _
theorem Laws.EncodedFields.ecbenc : Laws.EncodedFields.Statement .ecbenc := fields_commandWord _ _
theorem Laws.EncodedFields.ecbdec : Laws.EncodedFields.Statement .ecbdec := fields_commandWord _ _
theorem Laws.EncodedFields.gfmul : Laws.EncodedFields.Statement .gfmul := fields_commandWord _ _
theorem Laws.EncodedFields.ghash : Laws.EncodedFields.Statement .ghash := fields_commandWord _ _
theorem Laws.EncodedFields.ctr : Laws.EncodedFields.Statement .ctr := fields_commandWord _ _
theorem Laws.EncodedFields.gcminit (tl : BitVec 8) : Laws.EncodedFields.Statement (.gcminit tl) :=
  fields_commandWord _ _
theorem Laws.EncodedFields.gcmenc : Laws.EncodedFields.Statement .gcmenc := fields_commandWord _ _
theorem Laws.EncodedFields.gcmdec : Laws.EncodedFields.Statement .gcmdec := fields_commandWord _ _

end Sys2Proof
end

