-- ==== Sys2Proof/Laws/Port.lean ====
section
/-! SUPPORT. The address map and everything the two transactions can do. -/

namespace Sys2Proof.Machine

/-! ### The address map (`20_memory.md` R64) -/

@[simp] theorem portTarget_cmd (cfg : Config) : portTarget cfg 0x0000#32 = .cmd := rfl

@[simp] theorem portTarget_status (cfg : Config) : portTarget cfg 0x0004#32 = .status := rfl

@[simp] theorem portTarget_oper (cfg : Config) (r : OperReg) : portTarget cfg (operAddr r) = .oper r := by
  cases r <;> rfl

/-- The buffer window: word `k` stands at 0x1000 + 4k. -/
theorem portTarget_word (cfg : Config) {k : Nat} (hc : cfg.bufBytes ≤ 2 ^ 31) (h : 4 * k + 4 ≤ cfg.bufBytes) :
    portTarget cfg (BitVec.ofNat 32 (0x1000 + 4 * k)) = .word (4 * k) := by
  have e : (BitVec.ofNat 32 (0x1000 + 4 * k)).toNat = 0x1000 + 4 * k := by
    rw [BitVec.toNat_ofNat]
    exact Nat.mod_eq_of_lt (by omega)
  have h0 : ¬ ((0x1000 + 4 * k) % 4 ≠ 0) := by omega
  have hn : ∀ c, c < 0x1000 → ¬ (0x1000 + 4 * k = c) := by intro c hc; omega
  have hw : 0x1000 ≤ 0x1000 + 4 * k ∧ 0x1000 + 4 * k + 4 ≤ 0x1000 + cfg.bufBytes := by omega
  have hs : 0x1000 + 4 * k - 0x1000 = 4 * k := Nat.add_sub_cancel_left ..
  unfold portTarget
  simp only [e, bufBase, if_neg h0, if_neg (hn _ (by decide : 0x00 < 0x1000)),
    if_neg (hn _ (by decide : 0x04 < 0x1000)), if_neg (hn _ (by decide : 0x10 < 0x1000)),
    if_neg (hn _ (by decide : 0x14 < 0x1000)), if_neg (hn _ (by decide : 0x18 < 0x1000)),
    if_neg (hn _ (by decide : 0x1C < 0x1000)), if_neg (hn _ (by decide : 0x20 < 0x1000)),
    if_neg (hn _ (by decide : 0x24 < 0x1000)), if_pos hw, hs]

/-- Only address 0x0004 names `STATUS`. -/
theorem portTarget_eq_status {cfg : Config} {addr : Word} (h : portTarget cfg addr = .status) :
    addr = 0x0004#32 := by
  unfold portTarget at h
  simp only at h
  repeat' split at h
  all_goals first
    | exact PortTarget.noConfusion h
    | (apply BitVec.eq_of_toNat_eq; assumption)

/-- A word of the buffer window lies inside the buffer. -/
theorem portTarget_eq_word {cfg : Config} {addr : Word} {off : Nat} (h : portTarget cfg addr = .word off) :
    off + 4 ≤ cfg.bufBytes := by
  unfold portTarget at h
  simp only at h
  repeat' split at h
  all_goals first
    | exact PortTarget.noConfusion h
    | (next hw =>
        injection h with h
        have := hw.2
        have := hw.1
        omega)

/-! ### Transactions -/

/-- Everything a write transaction can do (`20_memory.md` R65, R66). -/
theorem portWrite_cases (s : State) (addr d : Word) :
    portWrite s addr d = (s, .error) ∨
    (s.busy = false ∧
      (portWrite s addr d = (accept d s, .okay) ∨
       (∃ r, portWrite s addr d = (setOperand s r d, .okay)) ∨
       ∃ off, off + 4 ≤ s.cfg.bufBytes ∧
         portWrite s addr d = ({ s with buf := Memory.storeBytes s.buf off (bytes32 d) }, .okay))) := by
  unfold portWrite
  split
  · exact .inl rfl
  · next hb =>
    have hb : s.busy = false := by simpa using hb
    split
    · exact .inr ⟨hb, .inl rfl⟩
    · exact .inr ⟨hb, .inr (.inl ⟨_, rfl⟩)⟩
    · next off hw => exact .inr ⟨hb, .inr (.inr ⟨off, portTarget_eq_word hw, rfl⟩)⟩
    all_goals exact .inl rfl

/-- A write to an operand register while `BUSY = 0` sets that register (`20_memory.md` R65). -/
theorem portWrite_oper {s : State} {addr : Word} {r : OperReg} (d : Word) (hb : s.busy = false)
    (h : portTarget s.cfg addr = .oper r) : portWrite s addr d = (setOperand s r d, .okay) := by
  simp [portWrite, hb, h]

/-- A write to a buffer word while `BUSY = 0` stores its four bytes (`20_memory.md` R63, R65). -/
theorem portWrite_word {s : State} {addr : Word} {off : Nat} (d : Word) (hb : s.busy = false)
    (h : portTarget s.cfg addr = .word off) :
    portWrite s addr d = ({ s with buf := Memory.storeBytes s.buf off (bytes32 d) }, .okay) := by
  simp [portWrite, hb, h]

/-- A write to an address that takes no data is refused (`20_memory.md` R61, R65). -/
theorem portWrite_no_target {s : State} {addr : Word} (d : Word)
    (h : portTarget s.cfg addr = .status ∨ portTarget s.cfg addr = .misaligned ∨
      portTarget s.cfg addr = .unmapped) : portWrite s addr d = (s, .error) := by
  rcases h with h | h | h <;> simp [portWrite, h]

/-- A read that is refused returns data 0 (`20_memory.md` R60). -/
theorem portRead_error {s : State} {addr : Word} (h : (portRead s addr).2 = .error) :
    (portRead s addr).1 = 0#32 := by
  unfold portRead at h ⊢
  split at h <;> (try split at h) <;> simp_all

/-- A read transaction changes nothing but the model's record of it (`20_memory.md` R67). -/
theorem hostRead32_eq (addr : Word) (s : State) :
    hostRead32 addr s =
      { s with
        answer := some (.read (portRead s addr).1 (portRead s addr).2),
        refusedAccess := s.refusedAccess || ((portRead s addr).2 == .error) } := rfl

end Sys2Proof.Machine
end

