-- ==== Sys2Proof/Laws/Step.lean ====
section
/-! SUPPORT. Everything a step can do. -/

namespace Sys2Proof.Machine

/-- Everything the Core's turn can do (`30_encoding.md` R97, R93). -/
theorem coreStep_cases (s : State) :
    (s.busy = false ∧ coreStep s = .next s) ∨
    (s.busy = true ∧ (∃ r, latched s = .error r) ∧ coreStep s = raise .illegalCommand s) ∨
    (s.busy = true ∧ ∃ i, latched s = .ok i ∧ coreStep s = exec i s) := by
  unfold coreStep
  cases hb : s.busy with
  | false => exact .inl ⟨rfl, rfl⟩
  | true =>
    cases hl : latched s with
    | error r => exact .inr (.inl ⟨rfl, ⟨r, rfl⟩, rfl⟩)
    | ok i => exact .inr (.inr ⟨rfl, i, rfl, rfl⟩)

/-- Everything a step can do: the first pending move, or the Core's turn (log entry 3). -/
theorem step_cases (s : State) :
    (s.pending = [] ∧ step s = coreStep s) ∨
    (∃ rest, s.pending = .coreTurn :: rest ∧ step s = coreStep { s with pending := rest }) ∨
    (∃ addr d rest, s.pending = .write32 addr d :: rest ∧
      step s = .next (hostWrite32 addr d { s with pending := rest })) ∨
    (∃ addr rest, s.pending = .read32 addr :: rest ∧
      step s = .next (hostRead32 addr { s with pending := rest })) ∨
    (∃ rest, s.pending = .reset :: rest ∧ step s = .next (resetEvent { s with pending := rest })) := by
  unfold step
  match h : s.pending with
  | [] => exact .inl ⟨rfl, rfl⟩
  | .write32 addr d :: rest => exact .inr (.inr (.inl ⟨addr, d, rest, rfl, rfl⟩))
  | .read32 addr :: rest => exact .inr (.inr (.inr (.inl ⟨addr, rest, rfl, rfl⟩)))
  | .reset :: rest => exact .inr (.inr (.inr (.inr ⟨rest, rfl, rfl⟩)))
  | .coreTurn :: rest => exact .inr (.inl ⟨rest, rfl, rfl⟩)

/-- A run of one step more is that step and then the run. -/
theorem run_succ {M : Host.Core} {k : Nat} {s t : M.State} (h : M.step s = .next t) :
    M.run (k + 1) s = M.run k t := by
  rw [Host.Core.run, h]

/-- The same for this machine, its state type written out. -/
theorem run_core_succ {k : Nat} {s t : State} (h : step s = .next t) :
    Host.Core.run Sys2Proof.core (k + 1) s = Host.Core.run Sys2Proof.core k t :=
  run_succ (M := Sys2Proof.core) h

end Sys2Proof.Machine
end

