-- ==== Sys2Proof/Tests/Slice0.lean ====
section
/-! SUPPORT. Tests: decoding against words written out from the tables, a few steps of every command against the
values of `spec/95_test_vectors.md` and the worked examples, and for every obligation with hypotheses a witness
that they can be met together. -/

namespace Sys2Proof.Tests

open Sys2Proof Sys2Proof.Machine

/-! ## WellFormed: an ill-formed term is refused (R91) -/

theorem test_ill_formed_tag_length : (Instr.gcminit 17#8).wellFormed = false := by decide
theorem test_ill_formed_largest : (Instr.gcminit 255#8).wellFormed = false := by decide
theorem test_well_formed_boundary : (Instr.gcminit 16#8).wellFormed = true := by decide
theorem test_well_formed_default : (Instr.gcminit 0#8).wellFormed = true := by decide

/-! ## Decoding: the words written out as `RSV ++ ARG ++ OPC` from the tables of R90 to R92 -/

theorem test_decode_keyexp :
    decodeWord (0b0000000000000000#16 ++ 0b00000000#8 ++ 0b00000001#8) = .ok (.keyexp false) := by decide
theorem test_decode_keyexp_tt :
    decodeWord (0b0000000000000000#16 ++ 0b00000001#8 ++ 0b00000001#8) = .ok (.keyexp true) := by decide
theorem test_decode_ecbenc :
    decodeWord (0b0000000000000000#16 ++ 0b00000000#8 ++ 0b00000010#8) = .ok .ecbenc := by decide
theorem test_decode_ecbdec :
    decodeWord (0b0000000000000000#16 ++ 0b00000000#8 ++ 0b00000011#8) = .ok .ecbdec := by decide
theorem test_decode_gfmul :
    decodeWord (0b0000000000000000#16 ++ 0b00000000#8 ++ 0b00000100#8) = .ok .gfmul := by decide
theorem test_decode_ghash :
    decodeWord (0b0000000000000000#16 ++ 0b00000000#8 ++ 0b00000101#8) = .ok .ghash := by decide
theorem test_decode_ctr :
    decodeWord (0b0000000000000000#16 ++ 0b00000000#8 ++ 0b00000110#8) = .ok .ctr := by decide
theorem test_decode_gcminit :
    decodeWord (0b0000000000000000#16 ++ 0b00001100#8 ++ 0b00000111#8) = .ok (.gcminit 12#8) := by decide
theorem test_decode_gcmenc :
    decodeWord (0b0000000000000000#16 ++ 0b00000000#8 ++ 0b00001000#8) = .ok .gcmenc := by decide
theorem test_decode_gcmdec :
    decodeWord (0b0000000000000000#16 ++ 0b00000000#8 ++ 0b00001001#8) = .ok .gcmdec := by decide

/-- R93 and the illegal words of program P3. -/
theorem test_decode_illegal :
    decodeWord 0x00000000#32 = .error .unknownOpcode ∧ decodeWord 0x0000000A#32 = .error .unknownOpcode ∧
    decodeWord 0x00000201#32 = .error .illegalArgument ∧ decodeWord 0x00001107#32 = .error .illegalArgument ∧
    decodeWord 0x00000102#32 = .error .illegalArgument ∧
    decodeWord 0x00010001#32 = .error .reservedNonzero := by decide

theorem test_decode_table_word : decodeTableWord 32 0x00000008 = some .gcmenc := by decide

/-! ## Constants and primitives -/

/-- Every byte occurs among the 256 entries of `SBOX` (R120: a permutation): bit `y` of the sum is set when `y`
occurs. -/
theorem test_sbox_is_a_permutation :
    (List.range 256).foldl (fun seen x => seen ||| 2 ^ (sbox (BitVec.ofNat 8 x)).toNat) 0 = 2 ^ 256 - 1 := by
  decide +kernel

/-- R129 item 1 and C1: the known answer, and what the reading `Lp` = `L` gives in its place. -/
theorem test_known_answer :
    enc false (keyExpand knownAnswerInput) knownAnswerInput = 0x681edf34d206965e86b3e94f536e4246#128 ∧
    knownAnswerUnder diffuse diffuse = 0x6de720a7aa6776994e14ebe9210f0532#128 := by decide +kernel

/-- R129 item 2a against the entries that the reading examples of R120 give. -/
theorem test_sbox_construction :
    sboxConstruction 0x00#8 = 0xd6#8 ∧ sboxConstruction 0x01#8 = 0x90#8 ∧ sboxConstruction 0x10#8 = 0x2b#8 ∧
    sboxConstruction 0x71#8 = 0x00#8 ∧ sboxConstruction 0xef#8 = 0x84#8 ∧
    sboxConstruction 0xff#8 = 0x48#8 := by decide +kernel

/-- R129 item 3, "byte `j` of `CK[i]` equals `((4*i + j) * 7) mod 256`" (R122), in all 128 bytes. -/
theorem test_round_constants_law : ∀ i : Fin 32, ∀ j : Fin 4,
    byteOf (roundConstants.getD i.val 0#32) j.val = roundConstantByte i j := by decide +kernel

/-- V3, the row of 0x01234567. -/
theorem test_word_transforms :
    tau 0x01234567#32 = 0x90F473A2#32 ∧ diffuse 0x01234567#32 = 0xFA26EB37#32 ∧
    diffuseKey 0x01234567#32 = 0xDA0F34E1#32 ∧ transform 0x01234567#32 = 0x6EF180C9#32 ∧
    transformKey 0x01234567#32 = 0xCFC85B85#32 := by decide +kernel

/-- V4, the row of 0x01. -/
theorem test_ttable :
    ttable 0 0x01#8 = 0xD0924242#32 ∧ ttable 1 0x01#8 = 0x42D09242#32 ∧
    ttable 2 0x01#8 = 0x4242D092#32 ∧ ttable 3 0x01#8 = 0x924242D0#32 := by decide +kernel

/-- The examples of R220. -/
theorem test_inc32_wraps :
    inc32 0x000102030405060708090a0bffffffff#128 = 0x000102030405060708090a0b00000000#128 ∧
    inc32 0xaabbccddeeff0011223344550000ffff#128 = 0xaabbccddeeff00112233445500010000#128 := by decide

/-! ## The commands: small states -/

/-- The key `k1` of the vectors, as a block. -/
def key1 : Block := 0x0123456789abcdeffedcba9876543210#128

/-- After reset, with 128 bytes of buffer. -/
def fresh : State := State.powerOn ⟨128⟩

/-- Bytes put into the buffer from an offset. -/
def put (off : Nat) (bs : List Byte) (s : State) : State :=
  { s with buf := Memory.storeBytes s.buf off bs }

/-- Descriptor A set. -/
def setA (off len : Word) (s : State) : State := { s with aoff := off, alen := len }

/-- Descriptor D set. -/
def setD (off len : Word) (s : State) : State := { s with doff := off, dlen := len }

/-- Descriptor T set. -/
def setT (off len : Word) (s : State) : State := { s with toff := off, tlen := len }

/-- The key `k1` expanded. -/
def keyed : State := { fresh with rk := keyExpand key1, keyValid := true }

/-- The session of the worked example of R246: `k1`, the nonce `00001234567800000000abcd`, 16 tag bytes. -/
def session : State :=
  { keyed with
    sessValid := true, h := 0x2677f46b09c122cc975533105bd4a22a#128,
    j0 := 0x00001234567800000000abcd00000001#128 }

/-- What a step leaves in the next state, if there is one. -/
def sees {α : Type} (r : Result) (f : State → α) : Option α :=
  match r with
  | .next t => some (f t)
  | .fault _ => none
  | .refused _ => none

/-- `n` bytes of the buffer from an offset. -/
def shown (off n : Nat) (s : State) : List Byte := Memory.bytes s.buf off n

/-! ## The commands: one step each -/

/-- R142, worked example. -/
theorem test_keyexp :
    sees (exec (.keyexp false) (setA 0#32 16#32 (put 0 (bytes128 key1) fresh)))
      (fun t => (statusWord t, t.rk[0], t.rk[1], t.rk[31])) =
    some (0x0010000A#32, 0xF12186F9#32, 0x41662B61#32, 0x9124A012#32) := by decide +kernel

/-- V12 row 9: the sum of offset and length is not taken modulo 2^32. -/
theorem test_keyexp_range :
    sees (exec (.keyexp false) (setA 0xFFFFFFF8#32 16#32 keyed)) statusWord = some 0x0010130C#32 := by
  decide +kernel

/-- V1 and R166, worked example. -/
theorem test_ecbenc :
    sees (exec .ecbenc (setD 16#32 16#32 (put 16 (bytes128 key1) keyed)))
      (fun t => (statusWord t, shown 16 16 t)) =
    some (0x0010000A#32, bytes128 0x681edf34d206965e86b3e94f536e4246#128) := by decide +kernel

/-- V13 row 13: no key. -/
theorem test_ecbenc_no_key :
    sees (exec .ecbenc (setD 0#32 5#32 fresh)) statusWord = some 0x00101104#32 := by decide +kernel

/-- V11, first row. -/
theorem test_ecbdec :
    sees (exec .ecbdec (setD 16#32 16#32 (put 16 (bytes128 key1) keyed))) (shown 16 16) =
    some (bytes128 0x9338375e82eec1cbbef65edf8757a631#128) := by decide +kernel

/-- V13 row 10: a length of 0. -/
theorem test_ecbdec_length :
    sees (exec .ecbdec (setD 32#32 0#32 keyed)) statusWord = some 0x0010020C#32 := by decide +kernel

/-- R200, worked example: x times x^127. -/
theorem test_gfmul :
    sees (exec .gfmul (setT 32#32 0#32 (setD 16#32 16#32 (setA 0#32 16#32
      (put 16 (bytes128 0x80000000000000000000000000000000#128) (put 0 (bytes128 2#128) fresh))))))
      (fun t => (statusWord t, shown 32 16 t)) =
    some (0x00100002#32, bytes128 0x87#128) := by decide +kernel

/-- V30 row 6: x^254, reduced 127 times; A and D are the same bytes. -/
theorem test_gfmul_square :
    sees (exec .gfmul (setT 32#32 0#32 (setD 0#32 16#32 (setA 0#32 16#32
      (put 0 (bytes128 0x80000000000000000000000000000000#128) fresh))))) (shown 32 16) =
    some (bytes128 0xc0000000000000000000000000001067#128) := by decide +kernel

/-- R201, worked example. -/
theorem test_ghash :
    sees (exec .ghash (setT 16#32 0#32 (setA 0#32 1#32 (put 0 [0x01#8] session)))) (shown 16 16) =
    some (bytes128 0x6ab43b387a69ca085c6ae7c0a92a0be8#128) := by decide +kernel

/-- R282: without a session, whether or not a key exists. -/
theorem test_ghash_no_session :
    sees (exec .ghash keyed) statusWord = some 0x0010120C#32 := by decide +kernel

/-- R224, worked example: 17 bytes, so that one byte of the second keystream block is used. -/
theorem test_ctr :
    sees (exec .ctr (setD 16#32 17#32 (setA 0#32 16#32
      (put 0 (bytes128 0x000102030405060708090a0b00000001#128)
        (put 16 (bytes128 0x000102030405060708090a0b0c0d0e0f#128 ++ [0x10#8]) keyed)))))
      (shown 16 17) =
    some (bytes128 0xa1ae2bf07cb1eef75423ef9db59a5df9#128 ++ [0x45#8]) := by decide +kernel

/-- R75: the data may not overlap the counter block. -/
theorem test_ctr_overlap :
    sees (exec .ctr (setD 15#32 1#32 (setA 0#32 16#32 keyed))) statusWord = some 0x0010130C#32 := by
  decide +kernel

/-- R246, worked example: the 12-byte nonce. -/
theorem test_gcminit :
    sees (exec (.gcminit 0#8) (setA 0#32 12#32
      (put 0 [0x00#8, 0x00#8, 0x12#8, 0x34#8, 0x56#8, 0x78#8, 0x00#8, 0x00#8, 0x00#8, 0x00#8, 0xab#8, 0xcd#8]
        keyed))) (fun t => (statusWord t, t.h, t.j0)) =
    some (0x0010001A#32, 0x2677f46b09c122cc975533105bd4a22a#128,
      0x00001234567800000000abcd00000001#128) := by decide +kernel

/-- R246, worked example: an 8-byte nonce takes the derived path. -/
theorem test_gcminit_derived :
    sees (exec (.gcminit 0#8) (setA 0#32 8#32
      (put 0 [0xca#8, 0xfe#8, 0xba#8, 0xbe#8, 0xfa#8, 0xce#8, 0xdb#8, 0xad#8] keyed))) State.j0 =
    some 0x7f216607d9e50cbff09d0b91af99aa92#128 := by decide +kernel

/-- The buffer of the worked example of R247 after the command. -/
def encrypted : State :=
  put 64 (bytes128 0x92aeefbe0ad9416944d211a1f6779bd9#128)
    (put 32 (bytes128 0x54e0759c76212dcfb327201d3d8a658e#128) session)

/-- R247, worked example. -/
theorem test_gcmenc :
    sees (exec .gcmenc (setT 64#32 0#32 (setD 32#32 16#32
      (put 32 (bytes128 0x00112233445566778899aabbccddeeff#128) session))))
      (fun t => (statusWord t, shown 32 16 t, shown 64 16 t)) =
    some (0x0010001A#32, bytes128 0x54e0759c76212dcfb327201d3d8a658e#128,
      bytes128 0x92aeefbe0ad9416944d211a1f6779bd9#128) := by decide +kernel

/-- R247: with no plaintext and no authentication data the tag is `Enc(RK, J0)`. -/
theorem test_gcmenc_empty :
    sees (exec .gcmenc (setT 64#32 0#32 session)) (shown 64 16) =
    some (bytes128 0x54f157af32744bb83bbe8aa6f1578b71#128) := by decide +kernel

/-- R248, worked example. -/
theorem test_gcmdec :
    sees (exec .gcmdec (setT 64#32 16#32 (setD 32#32 16#32 encrypted)))
      (fun t => (statusWord t, shown 32 16 t)) =
    some (0x0010001A#32, bytes128 0x00112233445566778899aabbccddeeff#128) := by decide +kernel

/-- R248, worked example with byte 32 changed from 0x54 to 0x55: nothing is released. -/
theorem test_gcmdec_forged :
    sees (exec .gcmdec (setT 64#32 16#32 (setD 32#32 16#32 (put 32 [0x55#8] encrypted))))
      (fun t => (statusWord t, shown 32 16 t)) =
    some (0x0010041C#32, bytes128 0x55e0759c76212dcfb327201d3d8a658e#128) := by decide +kernel

/-! ## Steps of the machine -/

/-- R97 and log entry 4: the word placed by `withFetchWord` is what the next step completes. -/
theorem test_step_runs_fetched_word :
    sees (step (fresh.withFetchWord 32 0x00000002)) statusWord = some 0x00101104#32 := by decide +kernel

/-- R98 and log entry 3: with no pending move the Core completes an accepted command; before that the status is
`BUSY` (program P1). -/
theorem test_core_turn :
    statusWord (accept 0x00000001#32 fresh) = 0x00100001#32 ∧
    sees (step (accept 0x00000001#32 fresh)) statusWord = some 0x00100104#32 := by decide +kernel

/-- R31, R42. -/
theorem test_reset_status : portRead State.reset 0x0004#32 = (0x00100000#32, .okay) := by decide

/-! ## Witnesses: a machine with a command in progress and one without -/

/-- KEYEXP accepted, nothing else pending. -/
def busyOne : State := accept 0x00000001#32 (setA 0#32 16#32 (put 0 (bytes128 key1) fresh))

/-- KEYEXP accepted, and four moves pending, the third of them the Core's. -/
def busyQueue : State :=
  { busyOne with pending := [.read32 0x0004#32, .write32 0x0010#32 1#32, .coreTurn, .read32 0x0004#32] }

/-- An illegal word accepted. -/
def busyIllegal : State := accept 0x00001107#32 fresh

/-- It completes with `IllegalCommand` (R93). -/
theorem busyIllegal_completes : coreStep busyIllegal = raise .illegalCommand busyIllegal := by
  have h : latched busyIllegal = .error .illegalArgument := by decide +kernel
  have hb : busyIllegal.busy = true := rfl
  unfold coreStep
  rw [if_pos hb, h]

theorem illegal_word : ¬ legalWord 0x00001107#32 := by unfold legalWord; decide

theorem legal_word_boundary : legalWord 0x00001007#32 := by unfold legalWord; decide

theorem witness_DecodeInvertsEncode :
    (Instr.keyexp true).wellFormed = true ∧ (Instr.gcminit 16#8).wellFormed = true ∧
    Instr.gcmdec.wellFormed = true := by decide

theorem witness_EncodeInvertsDecode : decodeWord 0x00001007#32 = .ok (.gcminit 16#8) := by decide

theorem witness_IllegalWordsCompleteWithIllegalCommand :
    fresh.busy = false ∧ ¬ legalWord 0x00001107#32 := ⟨rfl, illegal_word⟩

theorem witness_StepRunsTheDecodedCommand :
    busyOne.busy = true ∧ latched busyOne = .ok (.keyexp false) ∧ busyOne.pending = [] := by
  decide +kernel

theorem witness_StepRunsTheDecodedCommand_turn :
    let s := { busyOne with pending := [.coreTurn] }
    s.busy = true ∧ latched s = .ok (.keyexp false) ∧ s.pending = .coreTurn :: [] := by decide +kernel

theorem witness_AcceptedWordIsRunNext : (Instr.gcminit 16#8).wellFormed = true := by decide

theorem witness_EveryCommandCompletes : fresh.busy = false ∧ busyOne.busy = true := ⟨rfl, rfl⟩

theorem witness_BusyMachineBecomesIdle : busyQueue.busy = true ∧ busyQueue.pending.length = 4 :=
  ⟨rfl, rfl⟩

/-! ## Witnesses: the host port -/

theorem witness_BusyRefusesAllButStatusReads : busyOne.busy = true ∧ 0x0000#32 ≠ 0x0004#32 := by decide

theorem witness_PortAnswersByAddress : fresh.busy = false ∧ fresh.cfg.Legal := by decide

theorem witness_PortAnswersByAddress_words :
    4 * 0 + 4 ≤ fresh.cfg.bufBytes ∧ 4 * 31 + 4 ≤ fresh.cfg.bufBytes ∧
    ¬ 4 * 32 + 4 ≤ fresh.cfg.bufBytes := by decide

theorem witness_PortAnswersByAddress_unmapped :
    (0x0008#32).toNat % 4 = 0 ∧ (0x000C#32).toNat % 4 = 0 ∧
    (0x0028#32).toNat % 4 = 0 ∧ 0x0028 ≤ (0x0028#32).toNat ∧ (0x0028#32).toNat ≤ 0x0FFC ∧
    (0x0FFC#32).toNat % 4 = 0 ∧ (0x0FFC#32).toNat ≤ 0x0FFC ∧
    (0x1080#32).toNat % 4 = 0 ∧ 0x1000 + fresh.cfg.bufBytes ≤ (0x1080#32).toNat ∧
    (0xFFFFFFFC#32).toNat % 4 = 0 ∧ 0x1000 + fresh.cfg.bufBytes ≤ (0xFFFFFFFC#32).toNat := by decide

/-- The answers at the same boundary addresses. -/
theorem test_port_boundaries :
    portRead fresh 0x0008#32 = (0#32, .error) ∧ portRead fresh 0x000C#32 = (0#32, .error) ∧
    portRead fresh 0x0010#32 = (0#32, .okay) ∧ portRead fresh 0x0024#32 = (0#32, .okay) ∧
    portRead fresh 0x0028#32 = (0#32, .error) ∧ portRead fresh 0x0FFC#32 = (0#32, .error) ∧
    (portWrite fresh 0x1000#32 7#32).2 = .okay ∧ (portWrite fresh 0x107C#32 7#32).2 = .okay ∧
    portRead fresh 0x1080#32 = (0#32, .error) ∧ portRead fresh 0xFFFFFFFC#32 = (0#32, .error) := by
  decide +kernel

theorem witness_PortAnswersByAddress_misaligned :
    (0x0001#32).toNat % 4 ≠ 0 ∧ (0x1002#32).toNat % 4 ≠ 0 ∧ (0xFFFFFFFF#32).toNat % 4 ≠ 0 := by decide

theorem witness_OperandRegistersHoldWhatTheHostWrote :
    fresh.busy = false ∧ busyOne.busy = true ∧ (∃ t, coreStep busyIllegal = .next t) :=
  ⟨rfl, rfl, ⟨_, busyIllegal_completes⟩⟩

theorem witness_BufferWordsAreBigEndian :
    fresh.busy = false ∧ fresh.cfg.Legal ∧ 4 * 31 + 4 ≤ fresh.cfg.bufBytes := by decide

theorem witness_OnlyCommandWritesHaveEffects :
    fresh.busy = false ∧ busyOne.busy = true ∧ portTarget fresh.cfg 0x0010#32 = .oper .aoff ∧
    portTarget fresh.cfg 0x0024#32 = .oper .tlen ∧ portTarget fresh.cfg 0x1000#32 = .word 0 ∧
    portTarget fresh.cfg 0x107C#32 = .word 124 ∧ portTarget fresh.cfg 0x0004#32 = .status ∧
    portTarget fresh.cfg 0x1002#32 = .misaligned ∧ portTarget fresh.cfg 0x0FFC#32 = .unmapped ∧
    portTarget fresh.cfg 0x1080#32 = .unmapped := by decide

theorem witness_ConstantsPassTheirChecks :
    0xFF#8 ≠ 0x00#8 ∧ 0x01#8 ≠ 0x00#8 ∧ 0 < 32 ∧ 31 < 32 ∧ 0 < 4 ∧ 3 < 4 := by decide

/-- Three bytes at the last word of the buffer, padded to one word. -/
def loading : State :=
  { fresh with pending := ldbuf 124 [0x68#8, 0x64#8, 0x72#8] ++ [.coreTurn] }

theorem witness_LdbufStoresTheBytes :
    loading.busy = false ∧ loading.cfg.Legal ∧ 124 % 4 = 0 ∧
    124 + (List.length [0x68#8, 0x64#8, 0x72#8] + 3) / 4 * 4 ≤ loading.cfg.bufBytes ∧
    loading.pending = ldbuf 124 [0x68#8, 0x64#8, 0x72#8] ++ [.coreTurn] := by decide +kernel

/-! ## Witnesses: reset and the invariant -/

theorem witness_ResetEventClearsAllButTheBuffer :
    ({ busyOne with pending := [.reset, .coreTurn] } : State).pending = .reset :: [.coreTurn] := rfl

theorem witness_ResetStateIsSound : (Config.mk 64).Legal ∧ (Config.mk (2 ^ 31)).Legal := by decide

/-- A machine after reset is sound. -/
theorem fresh_sound : fresh.Inv := by
  constructor <;> first | simp [fresh, State.powerOn]; done | decide

theorem witness_StatusShowsTheFlags : fresh.Inv := fresh_sound

/-- A sound machine with a command in progress. -/
theorem busyIllegal_sound : busyIllegal.Inv := by
  constructor <;> first | simp [busyIllegal, accept, fresh, State.powerOn]; done | decide

theorem witness_StepKeepsSoundness : busyIllegal.Inv ∧ ∃ t, step busyIllegal = .next t :=
  ⟨busyIllegal_sound, ⟨_, busyIllegal_completes⟩⟩

/-! ## Witnesses: each command completes -/

theorem witness_KeyexpConstructsTheInstance :
    let s := setA 112#32 16#32 fresh
    s.alen = 16#32 ∧ s.aoff.toNat + 16 ≤ s.cfg.bufBytes := by decide

theorem witness_EcbencEncryptsInPlace :
    let s := setD 112#32 16#32 { fresh with keyValid := true }
    s.keyValid = true ∧ s.dlen = 16#32 ∧ s.doff.toNat + 16 ≤ s.cfg.bufBytes := by decide

theorem witness_EcbdecDecryptsInPlace :
    let s := setD 1#32 16#32 { fresh with keyValid := true }
    s.keyValid = true ∧ s.dlen = 16#32 ∧ s.doff.toNat + 16 ≤ s.cfg.bufBytes := by decide

theorem witness_GfmulWritesTheProduct :
    let s := setT 112#32 0#32 (setD 0#32 16#32 (setA 96#32 16#32 fresh))
    s.alen = 16#32 ∧ s.dlen = 16#32 ∧ (rangeA s).inside s.cfg ∧ (rangeD s).inside s.cfg ∧
      (rangeT16 s).inside s.cfg ∧ ¬ (rangeT16 s).overlaps (rangeA s) ∧
      ¬ (rangeT16 s).overlaps (rangeD s) := by decide

theorem witness_GhashWritesTheHash :
    let s := setT 112#32 0#32 (setD 0#32 33#32 (setA 128#32 0#32 { fresh with sessValid := true }))
    s.sessValid = true ∧ (rangeA s).inside s.cfg ∧ (rangeD s).inside s.cfg ∧
      (rangeT16 s).inside s.cfg ∧ ¬ (rangeT16 s).overlaps (rangeA s) ∧
      ¬ (rangeT16 s).overlaps (rangeD s) := by decide

theorem witness_CtrXorsTheKeystream :
    let s := setD 16#32 112#32 (setA 0#32 16#32 { fresh with keyValid := true })
    s.keyValid = true ∧ s.alen = 16#32 ∧ (rangeA s).inside s.cfg ∧ (rangeD s).inside s.cfg ∧
      ¬ (rangeD s).overlaps (rangeA s) := by decide

theorem witness_GcminitSetsUpTheSession :
    let s := setA 0#32 128#32 { fresh with keyValid := true }
    (16#8).toNat ≤ 16 ∧ (0#8).toNat ≤ 16 ∧ s.keyValid = true ∧ (rangeA s).inside s.cfg := by decide

/-- 20 bytes of authentication data, 33 of payload, 12 of tag, none of them aligned. -/
def packed : State :=
  setT 115#32 12#32 (setD 65#32 33#32 (setA 33#32 20#32
    { fresh with sessValid := true, keyValid := true, tagLen := 12#5 }))

theorem witness_GcmencEncryptsAndTags :
    packed.sessValid = true ∧ packed.tagLen.toNat ≤ 16 ∧ (rangeA packed).inside packed.cfg ∧
      (rangeD packed).inside packed.cfg ∧ (rangeTag packed).inside packed.cfg ∧
      ¬ (rangeD packed).overlaps (rangeA packed) ∧ ¬ (rangeTag packed).overlaps (rangeA packed) ∧
      ¬ (rangeTag packed).overlaps (rangeD packed) := by decide

/-- The state of the worked example of R248 before the command. -/
def tagged : State := setT 64#32 16#32 (setD 32#32 16#32 encrypted)

theorem witness_GcmdecVerifiesThenDecrypts :
    tagged.sessValid = true ∧ tagged.tlen.toNat = tagged.tagLen.toNat ∧
      (rangeA tagged).inside tagged.cfg ∧ (rangeD tagged).inside tagged.cfg ∧
      (rangeT tagged).inside tagged.cfg ∧ ¬ (rangeD tagged).overlaps (rangeA tagged) ∧
      ¬ (rangeD tagged).overlaps (rangeT tagged) ∧
      gcmTag tagged.tsel tagged.rk tagged.h tagged.j0
        (Memory.bytes tagged.buf tagged.aoff.toNat tagged.alen.toNat)
        (Memory.bytes tagged.buf tagged.doff.toNat tagged.dlen.toNat) tagged.tagLen.toNat =
          Memory.bytes tagged.buf tagged.toff.toNat tagged.tlen.toNat := by decide +kernel

/-! ## Witnesses: errors -/

/-- The state of the forged example of R248. -/
def forged : State := setT 64#32 16#32 (setD 32#32 16#32 (put 32 [0x55#8] encrypted))

theorem witness_WrongTagsReleaseNothing :
    forged.sessValid = true ∧ forged.tagLen.toNat ≤ 16 ∧ forged.tlen.toNat = forged.tagLen.toNat ∧
      (rangeA forged).inside forged.cfg ∧ (rangeD forged).inside forged.cfg ∧
      (rangeT forged).inside forged.cfg ∧ ¬ (rangeD forged).overlaps (rangeA forged) ∧
      ¬ (rangeD forged).overlaps (rangeT forged) ∧
      gcmTag forged.tsel forged.rk forged.h forged.j0
        (Memory.bytes forged.buf forged.aoff.toNat forged.alen.toNat)
        (Memory.bytes forged.buf forged.doff.toNat forged.dlen.toNat) forged.tagLen.toNat ≠
          Memory.bytes forged.buf forged.toff.toNat forged.tlen.toNat := by decide +kernel

theorem witness_FirstApplicableErrorIsReported_illegal :
    busyIllegal.busy = true ∧ ¬ legalWord busyIllegal.cmdLatch := ⟨rfl, illegal_word⟩

/-- Each row of the priority table is the first to apply somewhere, and none applies somewhere. -/
theorem witness_FirstApplicableErrorIsReported :
    firstError (.gcminit 17#8) fresh = some .illegalCommand ∧
    firstError .ecbenc (setD 0#32 5#32 fresh) = some .noKey ∧
    firstError .gcmenc fresh = some .noSession ∧
    firstError (.keyexp false) (setA 0xFFFFFFF0#32 17#32 fresh) = some .invalidKeyLength ∧
    firstError .gfmul fresh = some .invalidBlockLength ∧
    firstError .gcmdec session = some .invalidTagLength ∧
    firstError (.keyexp false) (setA 113#32 16#32 fresh) = some .badOperand ∧
    firstError .gfmul (setD 0#32 16#32 (setA 0#32 16#32 fresh)) = some .badOperand ∧
    firstError .gcmdec forged = some .authenticationFailure ∧
    firstError .gcmdec tagged = none ∧ tagged.tagLen.toNat ≤ 16 := by decide +kernel

theorem witness_ErrorsAreThoseOfTheMatrix :
    Instr.gfmul.wellFormed = true ∧ fresh.err = false ∧
    (∃ t, exec .gfmul fresh = .next t ∧ t.err = true) ∧
    ErrorKind.badOperand ∈ possibleErrors .gfmul := ⟨rfl, rfl, ⟨_, rfl, rfl⟩, by decide⟩

theorem witness_FailedCommandsChangeOnlyTheErrorRecord :
    busyIllegal.busy = true ∧ busyIllegal.err = false ∧
    ∃ t, coreStep busyIllegal = .next t ∧ t.err = true := ⟨rfl, rfl, ⟨_, busyIllegal_completes, rfl⟩⟩

/-! ## Witnesses: frames and whole-machine rules -/

theorem witness_FrameOfBufferCommands :
    Instr.gfmul ∈ [Instr.ecbenc, .ecbdec, .gfmul, .ghash, .ctr, .gcmenc, .gcmdec] ∧
    ∃ t, exec .gfmul (setT 112#32 0#32 (setD 0#32 16#32 (setA 96#32 16#32 fresh))) = .next t := by
  refine ⟨by decide, ?_⟩
  rcases execGfmul_cases (setT 112#32 0#32 (setD 0#32 16#32 (setA 96#32 16#32 fresh))) with
    ⟨e, h⟩ | ⟨-, -, -, -, -, -, -, h⟩
  · exact ⟨_, h⟩
  · exact ⟨_, h⟩

theorem witness_FrameOfKeyexp : ∃ t, exec (.keyexp true) (setA 112#32 16#32 fresh) = .next t := by
  rcases execKeyexp_cases true (setA 112#32 16#32 fresh) with ⟨e, h⟩ | ⟨-, -, h⟩
  · exact ⟨_, h⟩
  · exact ⟨_, h⟩

theorem witness_FrameOfGcminit : ∃ t, exec (.gcminit 4#8) keyed = .next t := by
  rcases execGcminit_cases 4#8 keyed with ⟨e, h⟩ | ⟨-, -, -, h⟩
  · exact ⟨_, h⟩
  · exact ⟨_, h⟩

/-- One case for each clause: a failed command, and a success of each kind, and each refusal for lack of state. -/
theorem witness_CommandsMoveTheKeyAndSessionState :
    sees (exec .ecbenc fresh) (fun t => (t.err, t.errCode)) = some (true, 0x11#8) ∧
    sees (exec (.gcminit 4#8) fresh) (fun t => (t.err, t.errCode)) = some (true, 0x11#8) ∧
    sees (exec .ghash fresh) (fun t => (t.err, t.errCode)) = some (true, 0x12#8) ∧
    sees (exec (.keyexp true) (setA 0#32 16#32 (put 0 (bytes128 key1) fresh))) State.err = some false ∧
    sees (exec (.gcminit 4#8) keyed) State.err = some false ∧
    sees (exec .ctr (setA 0#32 16#32 (put 0 (bytes128 key1) keyed))) State.err = some false ∧
    sees (exec .gcmenc (setT 64#32 0#32 session)) State.err = some false := by decide +kernel

theorem witness_OnlyResetClearsKeyValid :
    let s := { keyed with pending := [.reset] }
    s.keyValid = true ∧ ∃ t, step s = .next t ∧ t.keyValid = false := ⟨rfl, _, rfl, rfl⟩

theorem witness_OnlyKeyexpWritesRoundKeys :
    sees (step busyOne) (fun t => decide (t.rk ≠ busyOne.rk)) = some true ∧
    sees (step { keyed with pending := [.reset] }) (fun t => decide (t.rk ≠ keyed.rk)) = some true := by
  decide +kernel

theorem witness_UnusedDescriptorsAreIgnored :
    Instr.ecbdec ∈ [Instr.ecbenc, .ecbdec] ∧ Instr.gcmenc ∈ [Instr.gfmul, .ghash, .gcmenc] := by decide

theorem witness_StrategyBitChangesNoResult :
    (∀ tt, Instr.ctr ≠ .keyexp tt) ∧ Instr.keyexp true = .keyexp true := by
  refine ⟨?_, rfl⟩
  intro tt h
  cases h

/-! ## Witnesses: the functions -/

theorem witness_TablesAreRotationsOfOne : 0 < 4 ∧ 3 < 4 ∧ 0 < 32 ∧ 31 < 32 := by decide

theorem witness_DifferentKeysDifferentRoundKeys : keyExpand key1 = keyExpand key1 := rfl

theorem witness_HashCornersAndLinearity :
    ([0x01#8] : List Byte).length = [0xFF#8].length ∧ (zeroBytes 17).length = (zeroBytes 17).length := by
  decide

theorem witness_CounterModeLaws : 16 < (zeroBytes 17).length ∧ 0 < (zeroBytes 1).length := by decide

theorem witness_InitialCounterOfANonce :
    (zeroBytes 12).length = 12 ∧ (zeroBytes 11).length ≠ 12 ∧ (zeroBytes 13).length ≠ 12 ∧
    (zeroBytes 0).length ≠ 12 ∧ (zeroBytes 16).length ≠ 12 := by decide

theorem witness_TagComparisonIsEquality :
    ([] : List Byte).length = ([] : List Byte).length ∧ (zeroBytes 16).length = (bytes128 key1).length := by
  decide

theorem witness_TagTruncationAndSharedMask : 0 ≤ 16 ∧ 16 ≤ 16 ∧ 16 ≤ (zeroBytes 16).length := by decide

/-! ## Witnesses: GCM as a whole -/

theorem witness_GcmRoundTrip :
    packed.tagLen.toNat ≤ 16 ∧ firstError .gcmenc packed = none ∧
    (∃ t, exec .gcmenc packed = .next t) ∧ (12#32).toNat = packed.tagLen.toNat := by
  refine ⟨by decide, by decide, ?_, by decide⟩
  rcases execGcmenc_cases packed with ⟨e, h⟩ | ⟨-, -, -, -, -, -, -, h⟩
  · exact ⟨_, h⟩
  · exact ⟨_, h⟩

/-- The bits of an accumulator that has taken in the high bits of `x` with the multiplicand 1. -/
theorem gfIterate_one (x : Block) (n : Nat) (hn : n ≤ 128) :
    gfIterate x 1#128 n ((x.setWidth 129) >>> n) = x.setWidth 129 := by
  induction n with
  | zero => simp [gfIterate]
  | succ i ih =>
    have step : gfStep x 1#128 i ((x.setWidth 129) >>> (i + 1)) = (x.setWidth 129) >>> i := by
      have hadd : (if x.getLsbD i then ((x.setWidth 129) >>> (i + 1)) <<< 1 ^^^ (1#128).setWidth 129
          else ((x.setWidth 129) >>> (i + 1)) <<< 1) = (x.setWidth 129) >>> i := by
        cases hx : x.getLsbD i <;>
        · apply BitVec.eq_of_getLsbD_eq
          intro j hj
          rcases j with _ | j
          · simp [hx]; try omega
          · have e : i + 1 + j = i + (j + 1) := by omega
            simp [hj, e]
      have htop : ((x.setWidth 129) >>> i).getLsbD 128 = false := by
        simp [BitVec.getLsbD_of_ge]
      simp only [gfStep, hadd, htop]
      rfl
    rw [gfIterate, step]
    exact ih (by omega)

/-- The polynomial 1 annihilates nothing. -/
theorem one_annihilatesNothing : annihilatesNothing 1#128 := by
  intro x hx
  have h0 : (x.setWidth 129) >>> 128 = 0#129 := by
    apply BitVec.eq_of_getLsbD_eq
    intro j hj
    simp [BitVec.getLsbD_of_ge]
  have h := gfIterate_one x 128 (by omega)
  rw [h0] at h
  rw [gfmul, h] at hx
  simpa using hx

/-- A session whose hash subkey is the polynomial 1, with 16 tag bytes, one byte of authentication data and one
of ciphertext. -/
def unitSession : State :=
  setA 0#32 1#32 (setD 1#32 1#32 (setT 16#32 16#32
    (put 0 [0xAA#8, 0xBB#8] { fresh with sessValid := true, keyValid := true, h := 1#128 })))

/-- The same with the right tag in place. -/
def unitTagged : State := put 16 (sessionTag unitSession [0xAA#8] [0xBB#8]) unitSession

theorem witness_ChangedBytesAreRefused :
    unitTagged.tagLen.toNat ≤ 16 ∧ firstError .gcmdec unitTagged = none ∧ 0x01#8 ≠ 0#8 ∧
    ((rangeT unitTagged).covers 16 ∧ ¬ (rangeA unitTagged).covers 16) ∧
    ((rangeT unitTagged).covers 31 ∧ ¬ (rangeA unitTagged).covers 31) := by decide +kernel

theorem witness_ChangedBytesAreRefused_data :
    ((rangeD unitTagged).covers 1 ∧ (rangeA unitTagged).covers 0 ∧ ¬ (rangeT unitTagged).covers 0) ∧
    unitTagged.tagLen = 16#5 ∧ annihilatesNothing unitTagged.h :=
  ⟨by decide, rfl, one_annihilatesNothing⟩

end Sys2Proof.Tests
end

section
/-! SUPPORT. Everything the completion of a command can do, and the invariant of the block: each named update of
the state keeps it, so every step does (obligation `StepKeepsSoundness`). -/

namespace Sys2Proof.Machine

/-! ### The buffer clauses of the invariant -/

/-- The buffer is in canonical form and lists no offset from `n` on (`20_memory.md` R62). -/
def Memory.Sound (n : Nat) (m : Memory) : Prop := Memory.wf m ∧ ∀ c ∈ m, c.1 < n

/-- Bytes stored below the bound keep the buffer sound. -/
theorem Memory.Sound.storeBytes {n : Nat} {m : Memory} {off : Nat} {bs : List Byte}
    (h : Memory.Sound n m) (hin : off + bs.length ≤ n) : Memory.Sound n (Memory.storeBytes m off bs) :=
  ⟨storeBytes_wf off bs h.1, storeBytes_inside h.2 hin⟩

/-- In a sound state the buffer is sound for its size. -/
theorem State.Inv.sound_buf {s : State} (h : s.Inv) : Memory.Sound s.cfg.bufBytes s.buf :=
  ⟨h.bufSorted, h.bufInside⟩

/-! ### Everything a completion can do -/

/-- A success that writes nothing but the buffer, inside its bounds. -/
def writesBufferOnly (r : Result) (s : State) : Prop :=
  ∃ m, r = succeed { s with buf := m } ∧
    (Memory.Sound s.cfg.bufBytes s.buf → Memory.Sound s.cfg.bufBytes m)

/-- A success that stores one byte sequence inside the buffer is of that kind. -/
theorem writesBufferOnly_of_storeBytes {r : Result} {s : State} {off : Nat} {bs : List Byte}
    (h : r = succeed { s with buf := Memory.storeBytes s.buf off bs })
    (hin : off + bs.length ≤ s.cfg.bufBytes) : writesBufferOnly r s :=
  ⟨_, h, fun hm => hm.storeBytes hin⟩

/-- Everything an in-place block command can do (`42_block_cipher.md` R166, R167). -/
theorem blockInPlace_error_or_buffer (f : Block → Block) (s : State) :
    (∃ e, blockInPlace f s = raise e s) ∨ writesBufferOnly (blockInPlace f s) s := by
  rcases blockInPlace_cases f s with he | ⟨-, hlen, hin, heq⟩
  · exact .inl he
  · exact .inr (writesBufferOnly_of_storeBytes heq (by simpa [hlen] using hin))

/-- Everything a command's completion can do (`30_encoding.md` R94, R97): the key that KEYEXP loads, the session of
GCMINIT, an error, or a success that writes the buffer only. -/
theorem exec_cases (i : Instr) (s : State) :
    (∃ tt, i = .keyexp tt ∧ s.alen.toNat = 16 ∧
      exec i s = succeed (newInstance tt (be128 (Memory.bytes s.buf s.aoff.toNat s.alen.toNat)) s)) ∨
    (∃ tl, i = .gcminit tl ∧ tl.toNat ≤ 16 ∧ s.keyValid = true ∧
      exec i s = succeed (newSession tl (Memory.bytes s.buf s.aoff.toNat s.alen.toNat) s)) ∨
    (∃ e, exec i s = raise e s) ∨
    writesBufferOnly (exec i s) s := by
  cases i with
  | keyexp tt =>
    rcases execKeyexp_cases tt s with he | ⟨hlen, -, heq⟩
    · exact .inr (.inr (.inl he))
    · exact .inl ⟨tt, rfl, hlen, heq⟩
  | gcminit tl =>
    rcases execGcminit_cases tl s with he | ⟨htl, hkey, -, heq⟩
    · exact .inr (.inr (.inl he))
    · exact .inr (.inl ⟨tl, rfl, htl, hkey, heq⟩)
  | ecbenc => exact .inr (.inr (blockInPlace_error_or_buffer _ s))
  | ecbdec => exact .inr (.inr (blockInPlace_error_or_buffer _ s))
  | gfmul =>
    refine .inr (.inr ((execGfmul_cases s).imp_right ?_))
    rintro ⟨-, -, -, -, hin, -, -, heq⟩
    exact writesBufferOnly_of_storeBytes heq (by simpa using hin)
  | ghash =>
    refine .inr (.inr ((execGhash_cases s).imp_right ?_))
    rintro ⟨-, -, -, hin, -, -, heq⟩
    exact writesBufferOnly_of_storeBytes heq (by simpa using hin)
  | ctr =>
    refine .inr (.inr ((execCtr_cases s).imp_right ?_))
    rintro ⟨-, -, -, hin, -, heq⟩
    exact writesBufferOnly_of_storeBytes heq (by simpa using hin)
  | gcmenc =>
    refine .inr (.inr ((execGcmenc_cases s).imp_right ?_))
    rintro ⟨-, -, hinD, hinTag, -, -, -, heq⟩
    refine ⟨_, heq, fun hm => (hm.storeBytes (by simpa using hinD)).storeBytes ?_⟩
    exact (Nat.add_le_add_left (sessionTag_length_le ..) _).trans hinTag
  | gcmdec =>
    refine .inr (.inr ((execGcmdec_cases s).imp_right ?_))
    rintro ⟨-, -, -, hin, -, -, -, -, heq⟩
    exact writesBufferOnly_of_storeBytes heq (by simpa using hin)

/-! ### Each update keeps the invariant -/

/-- The tag length that GCMINIT configures is 1 to 16 (`30_encoding.md` R91). -/
theorem configuredTagLen_range {tl : BitVec 8} (h : tl.toNat ≤ 16) :
    1 ≤ (configuredTagLen tl).toNat ∧ (configuredTagLen tl).toNat ≤ 16 := by
  unfold configuredTagLen
  split
  · decide
  · next hne =>
    have hpos : tl.toNat ≠ 0 := fun h0 => hne (BitVec.eq_of_toNat_eq h0)
    rw [BitVec.toNat_setWidth, Nat.mod_eq_of_lt (by omega)]
    omega

/-- The power-on state of a legal size is sound (`10_state.md` R42). -/
theorem powerOn_inv {cfg : Config} (h : cfg.Legal) : (State.powerOn cfg).Inv where
  cfgLegal := h
  bufSorted := List.Pairwise.nil
  bufInside := by simp [State.powerOn]
  busyAlone := nofun
  doneAlone := nofun
  noErrorNoCode _ := rfl
  codeProduced := nofun
  tagLenRange := by simp [State.powerOn]
  noKeyNoRoundKeys _ := rfl
  sessionHasKey := nofun
  noSessionCleared _ := ⟨rfl, rfl, rfl⟩
  sessionSubkey := nofun
  errorReadsZero := nofun
  refusalMarked := nofun

namespace State.Inv

variable {s : State}

/-- The list of moves still to come is no matter of the invariant. -/
theorem pending (h : s.Inv) (moves : List PortEvent) : State.Inv { s with pending := moves } := { h with }

/-- A sound buffer in place of the present one. -/
theorem buf (h : s.Inv) {m : Memory} (hm : Memory.Sound s.cfg.bufBytes m) :
    State.Inv { s with buf := m } :=
  { h with bufSorted := hm.1, bufInside := hm.2 }

/-- The write of an operand register. -/
theorem setOperand (h : s.Inv) (r : OperReg) (v : Word) : (setOperand s r v).Inv := by
  cases r <;> exact { h with }

/-- Acceptance clears the record of the command before. -/
theorem accept (h : s.Inv) (w : Word) : (accept w s).Inv :=
  { h with
    busyAlone := fun _ => ⟨rfl, rfl⟩
    doneAlone := nofun
    noErrorNoCode := fun _ => rfl
    codeProduced := nofun }

/-- Completion with an error: `DONE` was 0, since the command was in progress. -/
theorem flagsError (h : s.Inv) (hbusy : s.busy = true) (e : ErrorKind) : (flagsError e s).Inv :=
  { h with
    busyAlone := nofun
    doneAlone := fun hdone => absurd ((h.busyAlone hbusy).1.symm.trans hdone) (by decide)
    noErrorNoCode := nofun
    codeProduced := fun _ => ⟨e, rfl⟩ }

/-- Completion without error: `ERR` was 0, since the command was in progress. -/
theorem flagsDone (h : s.Inv) (hbusy : s.busy = true) : (flagsDone s).Inv :=
  { h with
    busyAlone := nofun
    doneAlone := fun _ => (h.busyAlone hbusy).2 }

/-- KEYEXP's writes leave a key and no session (`10_state.md` R28). -/
theorem newInstance (h : s.Inv) (tt : Bool) (key : Block) : (newInstance tt key s).Inv :=
  { h with
    tagLenRange := by simp
    noKeyNoRoundKeys := nofun
    sessionHasKey := fun _ => rfl
    noSessionCleared := fun _ => ⟨rfl, rfl, rfl⟩
    sessionSubkey := nofun }

/-- GCMINIT's writes open a session under the present key (`10_state.md` R26, R27). -/
theorem newSession (h : s.Inv) {tl : BitVec 8} (htl : tl.toNat ≤ 16) (hkey : s.keyValid = true)
    (nonce : List Byte) : (newSession tl nonce s).Inv :=
  { h with
    tagLenRange := configuredTagLen_range htl
    sessionHasKey := fun _ => hkey
    noSessionCleared := nofun
    sessionSubkey := fun _ => rfl }

/-- The record of a transaction, when a read answered `ERROR` carries 0 and only an answer `ERROR` says so. -/
theorem recordAnswer (h : s.Inv) {a : PortAnswer} {r : Resp} (hzero : ∀ d, a = .read d .error → d = 0#32)
    (herror : a = .write .error ∨ a = .read 0#32 .error → r = .error) : (recordAnswer a r s).Inv :=
  { h with
    errorReadsZero := fun d hd => hzero d (Option.some.inj hd)
    refusalMarked := fun ha => by
      have hr : r = .error := herror (ha.imp Option.some.inj Option.some.inj)
      simp [hr] }

/-- Reset: the power-on values, with the buffer and the record of the last answer kept (`10_state.md` R42). -/
theorem resetEvent (h : s.Inv) : (resetEvent s).Inv :=
  { powerOn_inv h.cfgLegal with
    bufSorted := h.bufSorted
    bufInside := h.bufInside
    errorReadsZero := h.errorReadsZero
    refusalMarked := h.refusalMarked }

/-! ### Each move keeps the invariant -/

/-- A read transaction. -/
theorem hostRead32 (h : s.Inv) (addr : Word) : (hostRead32 addr s).Inv := by
  apply h.recordAnswer
  · intro d hd
    obtain ⟨rfl, herr⟩ := PortAnswer.read.inj hd
    exact portRead_error herr
  · rintro (ha | ha)
    · cases ha
    · exact (PortAnswer.read.inj ha).2

/-- What a write transaction does to the block (`20_memory.md` R65). -/
theorem portWrite (h : s.Inv) (addr d : Word) : (portWrite s addr d).1.Inv := by
  rcases portWrite_cases s addr d with heq | ⟨-, heq | ⟨r, heq⟩ | ⟨off, hin, heq⟩⟩ <;> rw [heq]
  · exact h
  · exact h.accept d
  · exact h.setOperand r d
  · exact h.buf (h.sound_buf.storeBytes (by simpa using hin))

/-- A write transaction. -/
theorem hostWrite32 (h : s.Inv) (addr d : Word) : (hostWrite32 addr d s).Inv := by
  apply (h.portWrite addr d).recordAnswer
  · nofun
  · rintro (ha | ha)
    · exact PortAnswer.write.inj ha
    · cases ha

/-- The completion of a command in progress. -/
theorem exec (h : s.Inv) (hbusy : s.busy = true) {i : Instr} {t : State} (ht : exec i s = .next t) :
    t.Inv := by
  rcases exec_cases i s with ⟨tt, -, -, heq⟩ | ⟨tl, -, htl, hkey, heq⟩ | ⟨e, heq⟩ | ⟨m, heq, hm⟩ <;>
    simp only [heq, raise_next, succeed_next] at ht <;> subst ht
  · exact (h.newInstance tt _).flagsDone hbusy
  · exact (h.newSession htl hkey _).flagsDone hbusy
  · exact h.flagsError hbusy e
  · exact (h.buf (hm h.sound_buf)).flagsDone hbusy

/-- The Core's turn. -/
theorem coreStep (h : s.Inv) {t : State} (ht : coreStep s = .next t) : t.Inv := by
  rcases coreStep_cases s with ⟨-, heq⟩ | ⟨hbusy, -, heq⟩ | ⟨hbusy, i, -, heq⟩ <;> rw [heq] at ht
  · cases ht
    exact h
  · rw [raise_next] at ht
    exact ht ▸ h.flagsError hbusy _
  · exact h.exec hbusy ht

/-- Every step. -/
theorem step (h : s.Inv) {t : State} (ht : step s = .next t) : t.Inv := by
  rcases step_cases s with ⟨-, heq⟩ | ⟨rest, -, heq⟩ | ⟨addr, d, rest, -, heq⟩ | ⟨addr, rest, -, heq⟩ |
    ⟨rest, -, heq⟩ <;> rw [heq] at ht
  · exact h.coreStep ht
  · exact (h.pending rest).coreStep ht
  · cases ht
    exact (h.pending rest).hostWrite32 addr d
  · cases ht
    exact (h.pending rest).hostRead32 addr
  · cases ht
    exact (h.pending rest).resetEvent

end State.Inv

/-- Settles O22: every kind of move keeps the invariant. -/
theorem stepKeepsSoundness : Obligations.StepKeepsSoundness := fun _ _ hInv hstep => hInv.step hstep

/-- Settles O21. -/
theorem resetStateIsSound : Obligations.ResetStateIsSound :=
  ⟨powerOn_inv (by decide), fun _ hlegal => powerOn_inv hlegal⟩

end Sys2Proof.Machine
end

section
/-! SUPPORT. The operand registers, the round keys and `STATUS`: what the moves of the block do to each
(`10_state.md` R21, R28, R31, R32, R38, R42). -/

namespace Sys2Proof.Machine

/-! ### What no command changes: the operand registers -/

@[simp] theorem operand_flagsDone (s : State) (r : OperReg) : operand (flagsDone s) r = operand s r := by
  cases r <;> rfl

@[simp] theorem operand_flagsError (e : ErrorKind) (s : State) (r : OperReg) :
    operand (flagsError e s) r = operand s r := by
  cases r <;> rfl

@[simp] theorem operand_newInstance (tt : Bool) (key : Block) (s : State) (r : OperReg) :
    operand (newInstance tt key s) r = operand s r := by
  cases r <;> rfl

@[simp] theorem operand_newSession (tl : BitVec 8) (nonce : List Byte) (s : State) (r : OperReg) :
    operand (newSession tl nonce s) r = operand s r := by
  cases r <;> rfl

@[simp] theorem operand_with_buf (s : State) (m : Memory) (r : OperReg) :
    operand { s with buf := m } r = operand s r := by
  cases r <;> rfl

@[simp] theorem operand_powerOn (cfg : Config) (r : OperReg) : operand (State.powerOn cfg) r = 0#32 := by
  cases r <;> rfl

@[simp] theorem operand_resetEvent (s : State) (r : OperReg) : operand (resetEvent s) r = 0#32 := by
  cases r <;> rfl

/-- A command's completion leaves the operand registers (`10_state.md` R32). -/
theorem exec_operand {i : Instr} {s t : State} (h : exec i s = .next t) (r : OperReg) :
    operand t r = operand s r := by
  rcases exec_cases i s with ⟨tt, -, -, heq⟩ | ⟨tl, -, -, -, heq⟩ | ⟨e, heq⟩ | ⟨m, heq, -⟩ <;>
    simp only [heq, raise_next, succeed_next] at h <;> simp [h]

/-- The Core's turn leaves the operand registers (`10_state.md` R32). -/
theorem coreStep_operand {s t : State} (h : coreStep s = .next t) (r : OperReg) :
    operand t r = operand s r := by
  rcases coreStep_cases s with ⟨-, heq⟩ | ⟨-, -, heq⟩ | ⟨-, i, -, heq⟩ <;> rw [heq] at h
  · cases h
    rfl
  · simp [(raise_next ..).mp h]
  · exact exec_operand h r

/-- A read of an operand register while `BUSY = 0` returns its value (`20_memory.md` R65). -/
theorem portRead_oper {s : State} (r : OperReg) (hbusy : s.busy = false) :
    portRead s (operAddr r) = (operand s r, .okay) := by
  simp [portRead, hbusy]

/-- While `BUSY = 1` every write is refused (`20_memory.md` R66). -/
theorem portWrite_busy {s : State} (addr d : Word) (hbusy : s.busy = true) :
    portWrite s addr d = (s, .error) := by
  simp [portWrite, hbusy]

/-- Settles O14. -/
theorem operandRegistersHoldWhatTheHostWrote : Obligations.OperandRegistersHoldWhatTheHostWrote := by
  refine ⟨fun s r q v hbusy => ?_, fun s r v => portWrite_busy _ v, operand_resetEvent,
    fun s t r h => coreStep_operand h r⟩
  rw [portWrite_oper v hbusy (portTarget_oper s.cfg r)]
  refine ⟨rfl, ?_⟩
  rw [portRead_oper q (by simpa using hbusy), operand_setOperand]

/-! ### KEYEXP and the round keys -/

/-- The completion of KEYEXP. -/
theorem exec_keyexp (tt : Bool) (s : State) : exec (.keyexp tt) s = execKeyexp tt s := rfl

/-- Settles O37: an error raises its flags alone, a success makes the writes of `newInstance`. -/
theorem frameOfKeyexp : Obligations.FrameOfKeyexp := by
  intro tt s t h
  rw [exec_keyexp] at h
  rcases execKeyexp_cases tt s with ⟨e, heq⟩ | ⟨-, -, heq⟩
  · obtain rfl := (raise_next ..).mp (heq.symm.trans h)
    exact ⟨fun _ => rfl, rfl, .inr ⟨rfl, rfl, rfl, rfl, rfl, rfl, rfl, rfl, rfl⟩⟩
  · obtain rfl := (succeed_next ..).mp (heq.symm.trans h)
    exact ⟨fun _ => rfl, rfl, .inl ⟨rfl, rfl, rfl⟩⟩

/-- Settles O23. -/
theorem keyexpConstructsTheInstance : Obligations.KeyexpConstructsTheInstance := by
  intro tt s hlen hin
  have hlen : s.alen.toNat = 16 := by simp [hlen]
  have hin : (rangeA s).inside s.cfg := by simpa [hlen] using hin
  rw [exec_keyexp, execKeyexp, if_neg (not_not.mpr hlen), if_neg (not_not.mpr hin), memRead_inside _ hin,
    rangeA_off, rangeA_len, hlen]
  rfl

/-- A write transaction leaves the round keys. -/
theorem portWrite_rk (s : State) (addr d : Word) : (portWrite s addr d).1.rk = s.rk := by
  rcases portWrite_cases s addr d with heq | ⟨-, heq | ⟨r, heq⟩ | ⟨off, -, heq⟩⟩ <;> simp [heq]

/-- `t` is where a KEYEXP in progress in `s` ends that has written the round keys (`41_key_schedule.md` R142). -/
def keyexpLoads (s t : State) : Prop :=
  s.busy = true ∧ t.busy = false ∧ t.done = true ∧
    ∃ tt, latched s = .ok (.keyexp tt) ∧
      t.rk = keyExpand (be128 (Memory.bytes s.buf s.aoff.toNat 16))

/-- The Core's turn leaves the round keys unless a KEYEXP succeeds (`10_state.md` R21). -/
theorem coreStep_rk {s t : State} (h : coreStep s = .next t) : t.rk = s.rk ∨ keyexpLoads s t := by
  rcases coreStep_cases s with ⟨-, heq⟩ | ⟨-, -, heq⟩ | ⟨hbusy, i, hi, heq⟩ <;> rw [heq] at h
  · cases h
    exact .inl rfl
  · simp [(raise_next ..).mp h]
  · rcases exec_cases i s with ⟨tt, rfl, hlen, heq⟩ | ⟨tl, -, -, -, heq⟩ | ⟨e, heq⟩ | ⟨m, heq, -⟩ <;>
      simp only [heq, raise_next, succeed_next] at h <;> subst h
    · exact .inr ⟨hbusy, rfl, rfl, tt, hi, by simp [hlen]⟩
    all_goals exact .inl rfl

/-- Settles O41: of the moves of the outside world only reset writes the round keys. -/
theorem onlyKeyexpWritesRoundKeys : Obligations.OnlyKeyexpWritesRoundKeys := by
  intro s t h hne
  rcases step_cases s with ⟨-, heq⟩ | ⟨rest, -, heq⟩ | ⟨addr, d, rest, -, heq⟩ | ⟨addr, rest, -, heq⟩ |
    ⟨rest, hreset, -⟩
  · exact .inr ((coreStep_rk (heq.symm.trans h)).resolve_left hne)
  · exact .inr ((coreStep_rk (heq.symm.trans h)).resolve_left hne)
  · cases heq.symm.trans h
    exact absurd (portWrite_rk ..) hne
  · cases heq.symm.trans h
    exact absurd rfl hne
  · exact .inl ⟨rest, hreset⟩

/-! ### `STATUS` -/

/-- A read of `STATUS` succeeds at any time (`20_memory.md` R66). -/
@[simp] theorem portRead_status (s : State) : portRead s 0x0004#32 = (statusWord s, .okay) := rfl

/-- The six flags of `STATUS` at their bits (`10_state.md` R31). -/
theorem statusWord_bits (s : State) :
    (statusWord s).getLsbD 0 = s.busy ∧ (statusWord s).getLsbD 1 = s.done ∧
    (statusWord s).getLsbD 2 = s.err ∧ (statusWord s).getLsbD 3 = s.keyValid ∧
    (statusWord s).getLsbD 4 = s.sessValid ∧ (statusWord s).getLsbD 5 = s.tsel := by
  simp only [statusWord, BitVec.getLsbD_append]
  simp

/-- The fields of `STATUS` above them (`10_state.md` R31). -/
theorem statusWord_fields (s : State) :
    (statusWord s).extractLsb' 6 2 = 0#2 ∧ (statusWord s).extractLsb' 8 8 = s.errCode ∧
    (statusWord s).extractLsb' 16 5 = s.tagLen ∧ (statusWord s).extractLsb' 21 11 = 0#11 := by
  simp (disch := omega) only [statusWord, BitVec.extractLsb'_append_eq_of_add_le,
    BitVec.extractLsb'_append_eq_of_le]
  simp

/-- The three flags of completion are the low bits of `STATUS` (`10_state.md` R31). -/
theorem statusWord_completion (s : State) :
    (statusWord s).extractLsb' 0 3 =
      BitVec.ofBool s.err ++ BitVec.ofBool s.done ++ BitVec.ofBool s.busy := by
  obtain ⟨hbusy, hdone, herr, -⟩ := statusWord_bits s
  apply BitVec.eq_of_getLsbD_eq
  rintro (_ | _ | _ | i) hi
  · simp only [BitVec.getLsbD_extractLsb', BitVec.getLsbD_append, hbusy]; simp
  · simp only [BitVec.getLsbD_extractLsb', BitVec.getLsbD_append, hdone]; simp
  · simp only [BitVec.getLsbD_extractLsb', BitVec.getLsbD_append, herr]; simp
  · omega

/-- In a sound state at most one of `BUSY`, `DONE`, `ERR` shows 1 (`10_state.md` R31). -/
theorem statusWord_one_of_completion {s : State} (h : s.Inv) :
    ((statusWord s).extractLsb' 0 3).toNat ∈ [0, 1, 2, 4] := by
  rw [statusWord_completion]
  cases hbusy : s.busy with
  | true =>
    obtain ⟨hdone, herr⟩ := h.busyAlone hbusy
    simp [hdone, herr]
  | false =>
    cases hdone : s.done with
    | true => simp [h.doneAlone hdone]
    | false => cases s.err <;> simp

/-- Settles O12. -/
theorem statusShowsTheFlags : Obligations.StatusShowsTheFlags := by
  intro s d
  obtain ⟨hbusy, hdone, herr, hkey, hsess, htsel⟩ := statusWord_bits s
  obtain ⟨hreserved, hcode, htag, hupper⟩ := statusWord_fields s
  exact ⟨portRead_status s, portWrite_no_target d (.inl (portTarget_status _)), hbusy, hdone, herr, hkey, hsess,
    htsel, hreserved, hcode, htag, hupper, statusWord_one_of_completion⟩

/-- `STATUS` after power-on shows the default tag length alone (`10_state.md` R42). -/
theorem statusWord_powerOn (cfg : Config) : statusWord (State.powerOn cfg) = 0x00100000#32 := by
  simp [statusWord, State.powerOn]

/-- Settles O20. -/
theorem powerOnStateHasTheResetValues : Obligations.PowerOnStateHasTheResetValues := by
  refine ⟨rfl, fun cfg => ⟨rfl, rfl, rfl, fun k => ?_, rfl, rfl, rfl, rfl, rfl, rfl, rfl, rfl,
    operand_powerOn cfg, ?_⟩⟩
  · simp [State.powerOn]
  · rw [portRead_status, statusWord_powerOn]

/-- Settles O17: the address map reads the size alone, and each target shows other fields. -/
theorem secretsHaveNoAddress : Obligations.SecretsHaveNoAddress := by
  intro s addr rk h j0 latch
  unfold portRead
  cases portTarget s.cfg addr with
  | oper r => cases r <;> rfl
  | _ => rfl

end Sys2Proof.Machine
end

section
/-! SUPPORT. The answer to a host transaction, target by target, and the byte lanes of the buffer window
(`20_memory.md` R61, R63 to R67). -/

namespace Sys2Proof.Machine

/-! ### The addresses that name nothing (`20_memory.md` R61, R64) -/

theorem portTarget_misaligned (cfg : Config) {addr : Word} (h : addr.toNat % 4 ≠ 0) :
    portTarget cfg addr = .misaligned := if_pos h

/-- The aligned gaps of the address map and all that stands above the buffer window. -/
theorem portTarget_unmapped (cfg : Config) {addr : Word} (haligned : addr.toNat % 4 = 0)
    (h : addr.toNat = 0x0008 ∨ addr.toNat = 0x000C ∨ (0x0028 ≤ addr.toNat ∧ addr.toNat ≤ 0x0FFC) ∨
      0x1000 + cfg.bufBytes ≤ addr.toNat) : portTarget cfg addr = .unmapped := by
  have houtside : ¬ (bufBase ≤ addr.toNat ∧ addr.toNat + 4 ≤ bufBase + cfg.bufBytes) := by
    rw [bufBase]
    omega
  simp (disch := omega) only [portTarget, if_neg houtside, if_neg]

/-! ### Reads (`20_memory.md` R60, R65 to R67) -/

/-- A read of an address that names nothing is refused. -/
theorem portRead_no_target {s : State} {addr : Word}
    (h : portTarget s.cfg addr = .misaligned ∨ portTarget s.cfg addr = .unmapped) :
    portRead s addr = (0#32, .error) := by
  rcases h with h | h <;> simp [portRead, h]

/-- A read of a buffer word while `BUSY = 0` returns its four bytes. -/
theorem portRead_word {s : State} {addr : Word} {off : Nat} (hbusy : s.busy = false)
    (h : portTarget s.cfg addr = .word off) :
    portRead s addr = (be32 (Memory.bytes s.buf off 4), .okay) := by
  simp [portRead, hbusy, h]

/-- A read of `CMD` while `BUSY = 0` returns 0. -/
theorem portRead_cmd {s : State} (hbusy : s.busy = false) : portRead s 0x0000#32 = (0#32, .okay) := by
  simp [portRead, hbusy]

/-- While `BUSY = 1` a read of any target but `STATUS` is refused. -/
theorem portRead_busy {s : State} {addr : Word} (hbusy : s.busy = true) (hne : addr ≠ 0x0004#32) :
    portRead s addr = (0#32, .error) := by
  have hstatus : portTarget s.cfg addr ≠ .status := fun h => hne (portTarget_eq_status h)
  unfold portRead
  cases htarget : portTarget s.cfg addr with
  | status => exact absurd htarget hstatus
  | misaligned | unmapped => rfl
  | cmd | oper | word => exact if_pos hbusy

/-- No read shows the model's record of the transactions before it. -/
@[simp] theorem portRead_recordAnswer (a : PortAnswer) (r : Resp) (s : State) (q : Word) :
    portRead (recordAnswer a r s) q = portRead s q := by
  unfold portRead
  rw [show (recordAnswer a r s).cfg = s.cfg from rfl]
  cases portTarget s.cfg q with
  | oper r => cases r <;> rfl
  | _ => rfl

/-! ### Writes (`20_memory.md` R65 to R67) -/

/-- A write to `CMD` while `BUSY = 0` starts a command. -/
theorem portWrite_cmd {s : State} (d : Word) (hbusy : s.busy = false) :
    portWrite s 0x0000#32 d = (accept d s, .okay) := by
  simp [portWrite, hbusy]

/-- The write of an operand register touches none but the six. -/
theorem setOperand_eq_with (s : State) (r : OperReg) (v : Word) :
    ∃ a0 a1 d0 d1 t0 t1 : Word, setOperand s r v =
      { s with aoff := a0, alen := a1, doff := d0, dlen := d1, toff := t0, tlen := t1 } := by
  cases r <;> exact ⟨_, _, _, _, _, _, rfl⟩

/-- Setting an operand register twice is setting it once. -/
@[simp] theorem setOperand_setOperand_same (s : State) (r : OperReg) (v : Word) :
    setOperand (setOperand s r v) r v = setOperand s r v := by
  cases r <;> rfl

/-- A write to any target but `CMD`, repeated, is the write once. -/
theorem portWrite_portWrite_same {s : State} {addr : Word} (d : Word) (h : portTarget s.cfg addr ≠ .cmd) :
    portWrite (portWrite s addr d).1 addr d = portWrite s addr d := by
  cases hbusy : s.busy with
  | true => rw [portWrite_busy addr d hbusy, portWrite_busy addr d hbusy]
  | false =>
    cases htarget : portTarget s.cfg addr with
    | cmd => exact absurd htarget h
    | oper r =>
      rw [portWrite_oper d hbusy htarget, portWrite_oper d (by simpa using hbusy) (by simpa using htarget),
        setOperand_setOperand_same]
    | word off =>
      rw [portWrite_word d hbusy htarget, portWrite_word d (by exact hbusy) (by exact htarget),
        storeBytes_same]
    | status | misaligned | unmapped =>
      have hkept : portWrite s addr d = (s, .error) := portWrite_no_target d (by simp [htarget])
      rw [hkept, hkept]

/-! ### Byte lanes (`20_memory.md` R63) -/

/-- The four bytes of a word, the most significant first. -/
theorem bytes32_eq (w : Word) :
    bytes32 w = [w.extractLsb' 24 8, w.extractLsb' 16 8, w.extractLsb' 8 8, w.extractLsb' 0 8] := rfl

/-- The four bytes of a word put together from bytes. -/
theorem bytes32_append (a b c d : Byte) : bytes32 (a ++ b ++ c ++ d) = [a, b, c, d] := by
  simp (disch := omega) only [bytes32_eq, BitVec.extractLsb'_append_eq_of_add_le,
    BitVec.extractLsb'_append_eq_of_le]
  simp

/-- `be32` of four bytes puts the first one into the top lane. -/
theorem be32_eq_append (a b c d : Byte) : be32 [a, b, c, d] = a ++ b ++ c ++ d := by
  rw [← bytes32_append, be32_bytes32]

theorem bytes_four (m : Memory) (off : Nat) :
    Memory.bytes m off 4 =
      [Memory.byteAt m off, Memory.byteAt m (off + 1), Memory.byteAt m (off + 2),
        Memory.byteAt m (off + 3)] := rfl

/-- A word stored in the buffer stands there as its four bytes. -/
theorem bytes_storeBytes_word (m : Memory) (off : Nat) (w : Word) :
    Memory.bytes (Memory.storeBytes m off (bytes32 w)) off 4 = bytes32 w := by
  simpa only [bytes32_length] using bytes_storeBytes_same m off (bytes32 w)

/-- Every byte outside the four keeps its value when a word is stored. -/
theorem byteAt_storeBytes_word_outside {m : Memory} {off o : Nat} (w : Word)
    (h : ¬ (off ≤ o ∧ o < off + 4)) :
    Memory.byteAt (Memory.storeBytes m off (bytes32 w)) o = Memory.byteAt m o :=
  byteAt_storeBytes_outside (by rwa [bytes32_length])

/-! ### The statements -/

/-- Settles O13. -/
theorem portAnswersByAddress : Obligations.PortAnswersByAddress := by
  rintro s d hbusy ⟨-, -, hsize⟩
  refine ⟨⟨portRead_cmd hbusy, portWrite_cmd d hbusy⟩,
    ⟨portRead_status s, portWrite_no_target d (.inl (portTarget_status _))⟩,
    fun r => ⟨portRead_oper r hbusy, portWrite_oper d hbusy (portTarget_oper _ r)⟩, ?_, ?_, ?_⟩
  · intro k hk
    have hword := portTarget_word s.cfg hsize hk
    exact ⟨portRead_word hbusy hword, portWrite_word d hbusy hword⟩
  · intro addr haligned hgap
    have hunmapped := portTarget_unmapped s.cfg haligned hgap
    exact ⟨portRead_no_target (.inr hunmapped), portWrite_no_target d (.inr (.inr hunmapped))⟩
  · intro addr hoff
    have hmisaligned := portTarget_misaligned s.cfg hoff
    exact ⟨portRead_no_target (.inl hmisaligned), portWrite_no_target d (.inr (.inl hmisaligned))⟩

/-- Settles O15: both directions through the four bytes of the word. -/
theorem bufferWordsAreBigEndian : Obligations.BufferWordsAreBigEndian := by
  rintro s k d hbusy ⟨-, -, hsize⟩ hk
  have hword := portTarget_word s.cfg hsize hk
  refine ⟨?_, _, portWrite_word d hbusy hword, rfl, ?_⟩
  · rw [portRead_word hbusy hword, bytes_four, be32_eq_append]
  · have hstored := bytes_storeBytes_word s.buf (4 * k) d
    have hread := portRead_word (s := { s with buf := Memory.storeBytes s.buf (4 * k) (bytes32 d) }) hbusy hword
    rw [hstored, be32_bytes32] at hread
    rw [bytes_four, bytes32_eq] at hstored
    simp only [List.cons.injEq, and_true] at hstored
    obtain ⟨h0, h1, h2, h3⟩ := hstored
    exact ⟨h0, h1, h2, h3, fun _ => byteAt_storeBytes_word_outside d, hread⟩

/-- Settles O16. -/
theorem onlyCommandWritesHaveEffects : Obligations.OnlyCommandWritesHaveEffects := by
  intro s addr d
  refine ⟨⟨_, _, hostRead32_eq addr s⟩, portRead_recordAnswer _ _ s, ⟨_, _, rfl⟩, ?_, ?_, ?_, ?_,
    portWrite_portWrite_same d⟩
  · intro hbusy
    rw [portWrite_busy addr d hbusy]
  · intro hbusy r hoper
    rw [portWrite_oper d hbusy hoper]
    exact ⟨rfl, fun q => operand_setOperand s r q d, setOperand_eq_with s r d⟩
  · intro hbusy off hword
    rw [portWrite_word d hbusy hword]
    exact ⟨_, rfl, rfl, bytes_storeBytes_word s.buf off d, fun _ => byteAt_storeBytes_word_outside d⟩
  · intro hnone
    rw [portWrite_no_target d hnone]

/-- Settles O11. -/
theorem busyRefusesAllButStatusReads : Obligations.BusyRefusesAllButStatusReads := by
  intro s addr data hbusy
  have hwrite := portWrite_busy addr data hbusy
  refine ⟨portRead_status s, portRead_busy hbusy, hwrite, ?_, fun hne => ?_⟩
  · simp [hostWrite32, hwrite, recordAnswer]
  · simp [hostRead32_eq, portRead_busy hbusy hne]

end Sys2Proof.Machine
end

section
/-! SUPPORT. The command word: the decoder accepts exactly the words of the well-formed commands, which are the 26
legal words (`30_encoding.md` R90 to R93, R101). -/

namespace Sys2Proof.Machine

/-! ### A word and its fields -/

/-- A word with `RSV = 0` is made of its `ARG` and its `OPC` (R90). -/
theorem commandWord_fields {w : Word} (hrsv : fieldRsv w = 0x0000#16) :
    commandWord (fieldArg w) (fieldOpc w) = w := by
  rw [commandWord, ← hrsv, fieldRsv, fieldArg, fieldOpc,
    BitVec.extractLsb'_append_extractLsb'_eq_extractLsb' (by rfl : 16 = 8 + 8),
    BitVec.extractLsb'_append_extractLsb'_eq_extractLsb' (by rfl : 8 = 0 + 8)]
  exact BitVec.extractLsb'_eq_self

/-- A word is the word of a command when its fields are the command's (R90). -/
theorem encode_eq_iff {w : Word} {i : Instr} :
    encode i = w ↔ fieldRsv w = 0x0000#16 ∧ fieldOpc w = opcode i ∧ fieldArg w = argument i := by
  constructor
  · rintro rfl
    exact fields_commandWord (argument i) (opcode i)
  · rintro ⟨hrsv, hopc, harg⟩
    rw [encode, ← hopc, ← harg, commandWord_fields hrsv]

/-! ### What the decoder accepts -/

/-- A decoded command without argument: its word has `ARG = 0` (R91). -/
theorem decodeNoArg_sound {w : Word} {i j : Instr} (h : decodeNoArg w i = .ok j)
    (hrsv : fieldRsv w = 0x0000#16) (hopc : fieldOpc w = opcode i) (hwf : i.wellFormed = true)
    (harg : argument i = 0x00#8) : j.wellFormed = true ∧ encode j = w := by
  unfold decodeNoArg at h
  split at h
  · next hzero =>
    cases h
    exact ⟨hwf, encode_eq_iff.mpr ⟨hrsv, hopc, hzero.trans harg.symm⟩⟩
  · cases h

/-- `ARG` of KEYEXP up to 1 is its bit 0 (R91). -/
theorem argument_keyexp_getLsbD {arg : BitVec 8} (h : arg.toNat ≤ 1) :
    argument (.keyexp (arg.getLsbD 0)) = arg := by
  have hcases : arg = 0x00#8 ∨ arg = 0x01#8 := by bv_omega
  rcases hcases with rfl | rfl <;> rfl

/-- A decoded KEYEXP (R91). -/
theorem decodeKeyexp_sound {w : Word} {j : Instr} (h : decodeKeyexp w = .ok j)
    (hrsv : fieldRsv w = 0x0000#16) (hopc : fieldOpc w = 0x01#8) : j.wellFormed = true ∧ encode j = w := by
  unfold decodeKeyexp at h
  split at h
  · next hle =>
    cases h
    exact ⟨rfl, encode_eq_iff.mpr ⟨hrsv, hopc, (argument_keyexp_getLsbD hle).symm⟩⟩
  · cases h

/-- A decoded GCMINIT (R91). -/
theorem decodeGcminit_sound {w : Word} {j : Instr} (h : decodeGcminit w = .ok j)
    (hrsv : fieldRsv w = 0x0000#16) (hopc : fieldOpc w = 0x07#8) : j.wellFormed = true ∧ encode j = w := by
  unfold decodeGcminit at h
  split at h
  · next hle =>
    cases h
    exact ⟨decide_eq_true hle, encode_eq_iff.mpr ⟨hrsv, hopc, rfl⟩⟩
  · cases h

/-- A decoded word is the word of the command, which is well formed (R90 to R93). -/
theorem decodeWord_sound {w : Word} {i : Instr} (h : decodeWord w = .ok i) :
    i.wellFormed = true ∧ encode i = w := by
  by_cases hrsv : fieldRsv w = 0x0000#16
  · rw [decodeWord, if_neg (not_not.mpr hrsv)] at h
    repeat' split at h
    · next hopc => exact decodeKeyexp_sound h hrsv hopc
    · next hopc => exact decodeNoArg_sound h hrsv hopc rfl rfl
    · next hopc => exact decodeNoArg_sound h hrsv hopc rfl rfl
    · next hopc => exact decodeNoArg_sound h hrsv hopc rfl rfl
    · next hopc => exact decodeNoArg_sound h hrsv hopc rfl rfl
    · next hopc => exact decodeNoArg_sound h hrsv hopc rfl rfl
    · next hopc => exact decodeGcminit_sound h hrsv hopc
    · next hopc => exact decodeNoArg_sound h hrsv hopc rfl rfl
    · next hopc => exact decodeNoArg_sound h hrsv hopc rfl rfl
    · cases h
  · rw [decodeWord, if_pos hrsv] at h
    cases h

/-- The word of a well-formed command decodes to it (R90 to R92). -/
theorem decodeWord_encode {i : Instr} (hwf : i.wellFormed = true) : decodeWord (encode i) = .ok i := by
  obtain ⟨hrsv, hopc, harg⟩ := encode_eq_iff.mp (rfl : encode i = encode i)
  rw [decodeWord, if_neg (not_not.mpr hrsv), hopc]
  cases i with
  | keyexp tt =>
    simp only [opcode, ↓reduceIte, decodeKeyexp, harg]
    cases tt <;> rfl
  | gcminit tl =>
    simp only [opcode, BitVec.reduceEq, ↓reduceIte, decodeGcminit, harg]
    exact if_pos (of_decide_eq_true hwf)
  | _ => simp only [opcode, BitVec.reduceEq, ↓reduceIte, decodeNoArg, harg, argument]

/-- Settles O2. -/
theorem decodeInvertsEncode : Obligations.DecodeInvertsEncode := fun _ hwf => decodeWord_encode hwf

/-- Settles O3. -/
theorem encodeInvertsDecode : Obligations.EncodeInvertsDecode := fun _ _ h => (decodeWord_sound h).symm

/-- The words that decode are those of the well-formed commands. -/
theorem exists_decodeWord_iff {w : Word} :
    (∃ i, decodeWord w = .ok i) ↔ ∃ i : Instr, i.wellFormed = true ∧ encode i = w := by
  constructor
  · rintro ⟨i, h⟩
    exact ⟨i, decodeWord_sound h⟩
  · rintro ⟨i, hwf, rfl⟩
    exact ⟨i, decodeWord_encode hwf⟩

/-! ### The legal words (R93) -/

/-- The word of a well-formed command is legal. -/
theorem legalWord_encode {i : Instr} (hwf : i.wellFormed = true) : legalWord (encode i) := by
  obtain ⟨hrsv, hopc, harg⟩ := encode_eq_iff.mp (rfl : encode i = encode i)
  rw [fieldRsv] at hrsv
  rw [fieldOpc] at hopc
  rw [fieldArg] at harg
  refine ⟨hrsv, ?_⟩
  rw [hopc, harg]
  cases i with
  | keyexp tt => exact .inl ⟨rfl, by cases tt <;> decide⟩
  | gcminit tl => exact .inr (.inl ⟨rfl, of_decide_eq_true hwf⟩)
  | _ => exact .inr (.inr ⟨by simp [opcode], rfl⟩)

/-- The opcodes without argument are those of seven well-formed commands (R92). -/
theorem exists_noArg_of_opcode {opc : BitVec 8} (h : opc.toNat ∈ [2, 3, 4, 5, 6, 8, 9]) :
    ∃ i : Instr, i.wellFormed = true ∧ opc = opcode i ∧ argument i = 0x00#8 := by
  simp only [List.mem_cons, List.not_mem_nil, or_false] at h
  rcases h with h | h | h | h | h | h | h
  · exact ⟨.ecbenc, rfl, BitVec.eq_of_toNat_eq h, rfl⟩
  · exact ⟨.ecbdec, rfl, BitVec.eq_of_toNat_eq h, rfl⟩
  · exact ⟨.gfmul, rfl, BitVec.eq_of_toNat_eq h, rfl⟩
  · exact ⟨.ghash, rfl, BitVec.eq_of_toNat_eq h, rfl⟩
  · exact ⟨.ctr, rfl, BitVec.eq_of_toNat_eq h, rfl⟩
  · exact ⟨.gcmenc, rfl, BitVec.eq_of_toNat_eq h, rfl⟩
  · exact ⟨.gcmdec, rfl, BitVec.eq_of_toNat_eq h, rfl⟩

/-- A legal word is the word of a well-formed command. -/
theorem encode_of_legalWord {w : Word} (h : legalWord w) :
    ∃ i : Instr, i.wellFormed = true ∧ encode i = w := by
  obtain ⟨hrsv, ⟨hopc, harg⟩ | ⟨hopc, harg⟩ | ⟨hopc, harg⟩⟩ := h
  · exact ⟨.keyexp ((fieldArg w).getLsbD 0), rfl,
      encode_eq_iff.mpr ⟨hrsv, hopc, (argument_keyexp_getLsbD harg).symm⟩⟩
  · exact ⟨.gcminit (fieldArg w), decide_eq_true harg, encode_eq_iff.mpr ⟨hrsv, hopc, rfl⟩⟩
  · obtain ⟨i, hwf, hi, hzero⟩ := exists_noArg_of_opcode hopc
    exact ⟨i, hwf, encode_eq_iff.mpr ⟨hrsv, hi, harg.trans hzero.symm⟩⟩

/-- The legal words are those that decode (R93). -/
theorem legalWord_iff_decodes (w : Word) : legalWord w ↔ ∃ i, decodeWord w = .ok i := by
  rw [exists_decodeWord_iff]
  constructor
  · exact encode_of_legalWord
  · rintro ⟨i, hwf, rfl⟩
    exact legalWord_encode hwf

/-- The well-formed commands: two KEYEXP, 17 GCMINIT and seven without argument. -/
def wellFormedCommands : List Instr :=
  .keyexp false :: .keyexp true :: .ecbenc :: .ecbdec :: .gfmul :: .ghash :: .ctr :: .gcmenc :: .gcmdec ::
    (List.range 17).map fun n => .gcminit (BitVec.ofNat 8 n)

theorem mem_wellFormedCommands (i : Instr) : i ∈ wellFormedCommands ↔ i.wellFormed = true := by
  cases i with
  | keyexp tt => cases tt <;> decide
  | gcminit tl =>
    have htl : (∃ n < 17, BitVec.ofNat 8 n = tl) ↔ tl.toNat ≤ 16 := by
      constructor
      · rintro ⟨n, hn, rfl⟩
        rw [BitVec.toNat_ofNat]
        omega
      · intro h
        exact ⟨tl.toNat, by omega, by simp⟩
    simpa [wellFormedCommands, Instr.wellFormed] using htl
  | _ => decide

/-- The words of the well-formed commands differ from each other. -/
theorem encode_wellFormedCommands_nodup : (wellFormedCommands.map encode).Nodup := by
  refine List.Nodup.map_on (fun i hi j hj h => ?_) (by decide)
  rw [mem_wellFormedCommands] at hi hj
  exact Except.ok.inj ((decodeWord_encode hi).symm.trans (h ▸ decodeWord_encode hj))

/-- The words of the well-formed commands are the legal ones. -/
theorem mem_encode_wellFormedCommands (w : Word) :
    w ∈ wellFormedCommands.map encode ↔ legalWord w := by
  simp only [List.mem_map, mem_wellFormedCommands, legalWord_iff_decodes, exists_decodeWord_iff]

/-! ### The Core's turn on the accepted word (R96, R97) -/

/-- With a command in progress the Core runs what the accepted word decodes to. -/
theorem coreStep_of_latched_ok {s : State} {i : Instr} (hbusy : s.busy = true) (h : latched s = .ok i) :
    coreStep s = exec i s := by
  simp [coreStep, hbusy, h]

/-- With an illegal word in progress the Core raises `IllegalCommand` (R93). -/
theorem coreStep_of_latched_error {s : State} {r : Reject} (hbusy : s.busy = true)
    (h : latched s = .error r) : coreStep s = raise .illegalCommand s := by
  simp [coreStep, hbusy, h]

/-- An accepted word that is not legal completes with `IllegalCommand` (R93). -/
theorem coreStep_accept_illegal {w : Word} (s : State) (h : ¬ legalWord w) :
    coreStep (accept w s) = raise .illegalCommand (accept w s) := by
  rw [legalWord_iff_decodes] at h
  cases hdecode : decodeWord w with
  | ok i => exact absurd ⟨i, hdecode⟩ h
  | error r => exact coreStep_of_latched_error (accept_busy w s) hdecode

/-- Settles O4. -/
theorem illegalWordsCompleteWithIllegalCommand : Obligations.IllegalWordsCompleteWithIllegalCommand := by
  refine ⟨legalWord_iff_decodes, ⟨_, encode_wellFormedCommands_nodup, rfl, mem_encode_wellFormedCommands⟩,
    fun s w hidle hillegal => ⟨portWrite_cmd w hidle, ?_⟩⟩
  rw [coreStep_accept_illegal s hillegal]
  rfl

/-- Settles O1: the listed words, one by one. -/
theorem knownWordsDecode : Obligations.KnownWordsDecode := by
  unfold Obligations.KnownWordsDecode
  decide

/-- With no other move pending the step is the Core's turn (log entry 3). -/
theorem step_of_pending_nil {s : State} (h : s.pending = []) : step s = coreStep s := by
  simp [step, h]

/-- The Core's turn at the head of the pending moves is taken off the list (log entry 3). -/
theorem step_of_pending_coreTurn {s : State} {rest : List PortEvent} (h : s.pending = .coreTurn :: rest) :
    step s = coreStep { s with pending := rest } := by
  simp [step, h]

/-- Settles O5. -/
theorem stepRunsTheDecodedCommand : Obligations.StepRunsTheDecodedCommand := by
  intro s i hbusy hlatched
  refine ⟨fun hnil => ?_, fun rest hturn => ?_⟩
  · rw [step_of_pending_nil hnil, coreStep_of_latched_ok hbusy hlatched]
  · rw [step_of_pending_coreTurn hturn]
    exact coreStep_of_latched_ok hbusy hlatched

/-- The table's form of a command word is the word (R95). -/
theorem tableWord_toNat (w : Word) : tableWord 32 w.toNat = w := by
  simp [tableWord, Nat.mod_eq_of_lt w.isLt]

/-- Settles O6. -/
theorem acceptedWordIsRunNext : Obligations.AcceptedWordIsRunNext := by
  intro s i hwf
  have hlatched : latched (s.withFetchWord 32 (encode i).toNat) = .ok i :=
    (congrArg decodeWord (tableWord_toNat _)).trans (decodeWord_encode hwf)
  rw [step_of_pending_nil rfl]
  exact coreStep_of_latched_ok rfl hlatched

/-- Settles O7. -/
theorem commandWriteIsAcceptedWhenIdle : Obligations.CommandWriteIsAcceptedWhenIdle := by
  intro s w
  split
  · next hbusy => exact portWrite_busy _ w hbusy
  · next hidle => exact portWrite_cmd w (Bool.eq_false_of_not_eq_true hidle)

end Sys2Proof.Machine
end

section
/-! SUPPORT. No command stops and none stays in progress (`30_encoding.md` R97, R98), and the transactions of `ldbuf`
(R101). -/

namespace Sys2Proof.Machine

/-! ### Every command completes (R97) -/

/-- `t` is a completion of the command in progress in `s`: success, or one error without a write. -/
def completedFrom (s t : State) : Prop :=
  t.busy = false ∧
    ((t.done = true ∧ t.err = s.err ∧ t.errCode = s.errCode) ∨ ∃ e, t = flagsError e s)

theorem raise_completes (e : ErrorKind) (s : State) : ∃ t, raise e s = .next t ∧ completedFrom s t :=
  ⟨_, rfl, rfl, .inr ⟨e, rfl⟩⟩

/-- From every state every command completes. -/
theorem exec_completes (i : Instr) (s : State) : ∃ t, exec i s = .next t ∧ completedFrom s t := by
  rcases exec_cases i s with ⟨tt, -, -, heq⟩ | ⟨tl, -, -, -, heq⟩ | ⟨e, heq⟩ | ⟨m, heq, -⟩ <;> rw [heq]
  · exact ⟨_, rfl, rfl, .inl ⟨rfl, rfl, rfl⟩⟩
  · exact ⟨_, rfl, rfl, .inl ⟨rfl, rfl, rfl⟩⟩
  · exact raise_completes e s
  · exact ⟨_, rfl, rfl, .inl ⟨rfl, rfl, rfl⟩⟩

theorem coreStep_idle {s : State} (hidle : s.busy = false) : coreStep s = .next s := by
  simp [coreStep, hidle]

/-- The Core's turn completes the command in progress. -/
theorem coreStep_completes {s : State} (hbusy : s.busy = true) :
    ∃ t, coreStep s = .next t ∧ completedFrom s t := by
  cases hlatched : latched s with
  | ok i =>
    rw [coreStep_of_latched_ok hbusy hlatched]
    exact exec_completes i s
  | error r =>
    rw [coreStep_of_latched_error hbusy hlatched]
    exact raise_completes _ s

/-- Settles O8. -/
theorem everyCommandCompletes : Obligations.EveryCommandCompletes :=
  fun _ => ⟨coreStep_idle, coreStep_completes⟩

/-- The Core's turn answers from every state and leaves `BUSY = 0`. -/
theorem coreStep_next_idle (s : State) : ∃ t, coreStep s = .next t ∧ t.busy = false := by
  cases hbusy : s.busy with
  | false => exact ⟨s, coreStep_idle hbusy, hbusy⟩
  | true =>
    obtain ⟨t, heq, hidle, -⟩ := coreStep_completes hbusy
    exact ⟨t, heq, hidle⟩

/-- Settles O9: the moves of the outside world always answer, and so does the Core's turn. -/
theorem noStepStops : Obligations.NoStepStops := by
  intro s
  rcases step_cases s with ⟨-, heq⟩ | ⟨rest, -, heq⟩ | ⟨addr, d, rest, -, heq⟩ | ⟨addr, rest, -, heq⟩ |
    ⟨rest, -, heq⟩ <;> rw [heq]
  · exact (coreStep_next_idle s).imp fun _ => And.left
  · exact (coreStep_next_idle _).imp fun _ => And.left
  all_goals exact ⟨_, rfl⟩

/-! ### A command in progress ends (R98) -/

/-- While `BUSY = 1` a write transaction leaves its refusal only (`20_memory.md` R66). -/
theorem hostWrite32_busy (addr d : Word) {s : State} (hbusy : s.busy = true) :
    hostWrite32 addr d s = recordAnswer (.write .error) .error s := by
  rw [hostWrite32, portWrite_busy addr d hbusy]

/-- A step from `BUSY = 1` clears it, or takes one of the host's transactions off the list. -/
theorem step_busy {s : State} (hbusy : s.busy = true) :
    ∃ t, step s = .next t ∧ (t.busy = false ∨ t.busy = true ∧ ∃ e, s.pending = e :: t.pending) := by
  rcases step_cases s with ⟨-, heq⟩ | ⟨rest, -, heq⟩ | ⟨addr, d, rest, hpending, heq⟩ |
    ⟨addr, rest, hpending, heq⟩ | ⟨rest, -, heq⟩ <;> rw [heq]
  · exact (coreStep_next_idle s).imp fun _ => And.imp_right .inl
  · exact (coreStep_next_idle _).imp fun _ => And.imp_right .inl
  · rw [hostWrite32_busy addr d (by exact hbusy)]
    exact ⟨_, rfl, .inr ⟨hbusy, _, hpending⟩⟩
  · exact ⟨_, rfl, .inr ⟨hbusy, _, hpending⟩⟩
  · exact ⟨_, rfl, .inl rfl⟩

/-- Settles O10, by induction on the pending moves. -/
theorem busyMachineBecomesIdle : Obligations.BusyMachineBecomesIdle := by
  intro s hbusy
  induction hmoves : s.pending generalizing s with
  | nil =>
    obtain ⟨t, hstep, hidle | ⟨-, e, hpending⟩⟩ := step_busy hbusy
    · exact ⟨1, t, le_rfl, run_core_succ hstep, hidle⟩
    · cases hmoves.symm.trans hpending
  | cons e rest ih =>
    obtain ⟨t, hstep, hidle | ⟨hbusy', e', hpending⟩⟩ := step_busy hbusy
    · exact ⟨1, t, by simp, run_core_succ hstep, hidle⟩
    · obtain ⟨-, hrest⟩ := List.cons.inj (hmoves.symm.trans hpending)
      obtain ⟨k, u, hk, hrun, hidle⟩ := ih t hbusy' hrest.symm
      exact ⟨k + 1, u, Nat.succ_le_succ hk, (run_core_succ hstep).trans hrun, hidle⟩

/-! ### The transactions of `ldbuf` (R101) -/

/-- Bytes stored one after the other are stored as one sequence. -/
theorem storeBytes_append (m : Memory) (off : Nat) (a b : List Byte) :
    Memory.storeBytes m off (a ++ b) =
      Memory.storeBytes (Memory.storeBytes m off a) (off + a.length) b := by
  induction a generalizing m off with
  | nil => simp [storeBytes_nil]
  | cons x a ih =>
    rw [List.cons_append, storeBytes_cons, storeBytes_cons, ih, List.length_cons, Nat.add_right_comm,
      Nat.add_assoc]

/-- `bytes32` undoes `be32` on 4 bytes. -/
theorem bytes32_be32 {bs : List Byte} (h : bs.length = 4) : bytes32 (be32 bs) = bs := by
  match bs, h with
  | [a, b, c, d], _ => rw [be32_eq_append, bytes32_append]

/-- `n` words of a byte string, zero bytes on the right. -/
def padWords (n : Nat) (bs : List Byte) : List Byte := bs ++ zeroBytes (4 * n - bs.length)

theorem padWords_length {n : Nat} {bs : List Byte} (h : bs.length ≤ 4 * n) :
    (padWords n bs).length = 4 * n := by
  simp [padWords, zeroBytes, h]

/-- The first of the padded words, as `ldbufWords` builds it, and the rest. -/
theorem padWords_succ {n : Nat} {bs : List Byte} (h : bs.length ≤ 4 * (n + 1)) :
    padWords (n + 1) bs = (bs ++ zeroBytes 4).take 4 ++ padWords n (bs.drop 4) := by
  simp only [padWords, zeroBytes, List.take_append, List.take_replicate, List.length_drop]
  by_cases hlen : 4 ≤ bs.length
  · have hnone : 4 - bs.length = 0 := by omega
    have hrest : 4 * n - (bs.length - 4) = 4 * (n + 1) - bs.length := by omega
    rw [hnone, hrest, Nat.zero_min, List.replicate_zero, List.append_nil, ← List.append_assoc,
      List.take_append_drop]
  · have hsplit : 4 * (n + 1) - bs.length = (4 - bs.length) + 4 * n := by omega
    have hrest : 4 * n - (bs.length - 4) = 4 * n := by omega
    rw [hsplit, hrest, Nat.min_eq_left (by omega), List.take_of_length_le (by omega),
      List.drop_eq_nil_of_le (by omega), List.nil_append, List.append_assoc, List.replicate_append_replicate]

/-- The first write of a `ldbuf` stores its word. -/
theorem step_wrBuf {s : State} {off : Nat} {bs : List Byte} {rest : List PortEvent} (hidle : s.busy = false)
    (hlegal : s.cfg.Legal) (halign : off % 4 = 0) (hin : off + 4 ≤ s.cfg.bufBytes) (hlen : bs.length = 4)
    (hpending : s.pending = wrBuf off (be32 bs) :: rest) :
    ∃ a, step s = .next
      { s with buf := Memory.storeBytes s.buf off bs, pending := rest, answer := a } := by
  obtain ⟨k, rfl⟩ : ∃ k, off = 4 * k := ⟨off / 4, by omega⟩
  have hwrite : portWrite { s with pending := rest } (BitVec.ofNat 32 (bufBase + 4 * k)) (be32 bs) =
      ({ s with pending := rest, buf := Memory.storeBytes s.buf (4 * k) (bytes32 (be32 bs)) }, .okay) :=
    portWrite_word _ hidle (portTarget_word _ hlegal.2.2 hin)
  rw [bytes32_be32 hlen] at hwrite
  refine ⟨some (.write .okay), ?_⟩
  simp [step, hpending, wrBuf, hostWrite32, hwrite, recordAnswer]

/-- The writes of `n` words store the padded bytes. -/
theorem run_ldbufWords {n off : Nat} {bs : List Byte} {rest : List PortEvent} {s : State}
    (hidle : s.busy = false) (hlegal : s.cfg.Legal) (halign : off % 4 = 0)
    (hin : off + 4 * n ≤ s.cfg.bufBytes) (hlen : bs.length ≤ 4 * n)
    (hpending : s.pending = ldbufWords n off bs ++ rest) :
    ∃ a, Host.Core.run Sys2Proof.core n s = .next
      { s with buf := Memory.storeBytes s.buf off (padWords n bs), pending := rest, answer := a } := by
  induction n generalizing off bs s with
  | zero =>
    obtain rfl : bs = [] := List.length_eq_zero_iff.mp (by omega)
    refine ⟨s.answer, ?_⟩
    simp only [ldbufWords, List.nil_append] at hpending
    subst hpending
    simp [padWords, zeroBytes, storeBytes_nil, Host.Core.run]
  | succ n ih =>
    have hword : ((bs ++ zeroBytes 4).take 4).length = 4 := by simp [zeroBytes]
    obtain ⟨a, hstep⟩ := step_wrBuf hidle hlegal halign (by omega) hword hpending
    have hdrop : (bs.drop 4).length ≤ 4 * n := by rw [List.length_drop]; omega
    obtain ⟨a', hrun⟩ := ih (off := off + 4) (s := { s with
        buf := Memory.storeBytes s.buf off ((bs ++ zeroBytes 4).take 4),
        pending := ldbufWords n (off + 4) (bs.drop 4) ++ rest, answer := a })
      hidle hlegal (by omega) (by simp only; omega) hdrop rfl
    refine ⟨a', (run_core_succ hstep).trans (hrun.trans ?_)⟩
    rw [padWords_succ hlen, storeBytes_append, hword]

theorem ldbufWords_length (n off : Nat) (bs : List Byte) : (ldbufWords n off bs).length = n := by
  induction n generalizing off bs with
  | zero => rfl
  | succ n ih => rw [ldbufWords, List.length_cons, ih]

/-- Settles O18. -/
theorem ldbufStoresTheBytes : Obligations.LdbufStoresTheBytes := by
  intro s off bs rest hidle hlegal halign hin hpending
  obtain ⟨a, hrun⟩ := run_ldbufWords hidle hlegal halign (by omega) (by omega) hpending
  rw [ldbuf, ldbufWords_length]
  have hzeros : bs.length + (zeroBytes (4 * ((bs.length + 3) / 4) - bs.length)).length =
      (bs.length + 3) / 4 * 4 := by
    rw [zeroBytes, List.length_replicate]
    omega
  refine ⟨_, hrun, rfl, ?_, fun o hlow hhigh => ?_, fun o houtside => ?_⟩
  · rw [padWords, storeBytes_append, bytes_storeBytes_disjoint (by omega), bytes_storeBytes_same]
  · rw [padWords, storeBytes_append, byteAt_storeBytes, dif_pos (by omega)]
    exact List.getElem_replicate _
  · exact byteAt_storeBytes_outside (by rwa [padWords, List.length_append, hzeros])

end Sys2Proof.Machine
end

section
/-! SUPPORT. What the commands leave alone: the bytes outside the ranges they write, the key and session state
(`30_encoding.md` R94, R99), and the descriptors they do not use. -/

namespace Sys2Proof.Machine

/-! ### The commands that write the buffer (R94) -/

/-- The commands that write nothing but the buffer. -/
abbrev bufferCommands : List Instr := [.ecbenc, .ecbdec, .gfmul, .ghash, .ctr, .gcmenc, .gcmdec]

/-- The buffer `m` reads as that of `s` outside the ranges that `i` writes. -/
def agreesOutsideWritten (i : Instr) (s : State) (m : Memory) : Prop :=
  ∀ o, (∀ r ∈ writtenRanges i s, ¬ r.covers o) → Memory.byteAt m o = Memory.byteAt s.buf o

/-- A range keeps the bytes outside it when no more than its length is stored at its offset. -/
theorem byteAt_storeBytes_uncovered {r : Range} {m : Memory} {bs : List Byte} {o : Nat}
    (hlen : bs.length ≤ r.len) (h : ¬ r.covers o) :
    Memory.byteAt (Memory.storeBytes m r.off bs) o = Memory.byteAt m o :=
  byteAt_storeBytes_outside fun hin => h ⟨hin.1, by omega⟩

/-- A store into a range that the command writes. -/
theorem agreesOutsideWritten_storeBytes {i : Instr} {s : State} {m : Memory} {r : Range} {bs : List Byte}
    (hm : agreesOutsideWritten i s m) (hr : r ∈ writtenRanges i s) (hlen : bs.length ≤ r.len) :
    agreesOutsideWritten i s (Memory.storeBytes m r.off bs) :=
  fun o ho => (byteAt_storeBytes_uncovered hlen (ho r hr)).trans (hm o ho)

theorem agreesOutsideWritten_self (i : Instr) (s : State) : agreesOutsideWritten i s s.buf := fun _ _ => rfl

/-- Everything a buffer command can do: an error, or a success that writes the ranges of R94 only. -/
theorem exec_bufferCommand_cases {i : Instr} (hi : i ∈ bufferCommands) (s : State) :
    (∃ e, exec i s = raise e s) ∨
      ∃ m, exec i s = succeed { s with buf := m } ∧ agreesOutsideWritten i s m := by
  have hself := agreesOutsideWritten_self i s
  cases i with
  | keyexp tt => simp at hi
  | gcminit tl => simp at hi
  | ecbenc | ecbdec =>
    refine (blockInPlace_cases _ s).imp_right ?_
    rintro ⟨-, hlen, -, heq⟩
    exact ⟨_, heq, agreesOutsideWritten_storeBytes (r := rangeD s) hself (by simp [writtenRanges])
      (by simp [hlen])⟩
  | gfmul =>
    refine (execGfmul_cases s).imp_right ?_
    rintro ⟨-, -, -, -, -, -, -, heq⟩
    exact ⟨_, heq, agreesOutsideWritten_storeBytes (r := rangeT16 s) hself (by simp [writtenRanges])
      (by simp)⟩
  | ghash =>
    refine (execGhash_cases s).imp_right ?_
    rintro ⟨-, -, -, -, -, -, heq⟩
    exact ⟨_, heq, agreesOutsideWritten_storeBytes (r := rangeT16 s) hself (by simp [writtenRanges])
      (by simp)⟩
  | ctr =>
    refine (execCtr_cases s).imp_right ?_
    rintro ⟨-, -, -, -, -, heq⟩
    exact ⟨_, heq, agreesOutsideWritten_storeBytes (r := rangeD s) hself (by simp [writtenRanges])
      (by simp)⟩
  | gcmenc =>
    refine (execGcmenc_cases s).imp_right ?_
    rintro ⟨-, -, -, -, -, -, -, heq⟩
    have hdata := agreesOutsideWritten_storeBytes (r := rangeD s) hself (by simp [writtenRanges])
      (bs := ctrBytes s s.j0 (Memory.bytes s.buf s.doff.toNat s.dlen.toNat)) (by simp)
    exact ⟨_, heq, agreesOutsideWritten_storeBytes (r := rangeTag s) hdata (by simp [writtenRanges])
      (sessionTag_length_le ..)⟩
  | gcmdec =>
    refine (execGcmdec_cases s).imp_right ?_
    rintro ⟨-, -, -, -, -, -, -, -, heq⟩
    exact ⟨_, heq, agreesOutsideWritten_storeBytes (r := rangeD s) hself (by simp [writtenRanges])
      (by simp)⟩

/-- Settles O36. -/
theorem frameOfBufferCommands : Obligations.FrameOfBufferCommands := by
  intro i s t hi h
  rcases exec_bufferCommand_cases hi s with ⟨e, heq⟩ | ⟨m, heq, hm⟩
  · obtain rfl := (raise_next ..).mp (heq.symm.trans h)
    exact ⟨fun _ _ => rfl, rfl, .inr ⟨rfl, rfl, rfl⟩⟩
  · obtain rfl := (succeed_next ..).mp (heq.symm.trans h)
    exact ⟨hm, rfl, .inl ⟨rfl, rfl, rfl⟩⟩

/-! ### The key and session state (R99) -/

/-- The well-formed commands that need a key report `NoKey` without it. -/
theorem exec_without_key {i : Instr} {s : State} (hwf : i.wellFormed = true)
    (hi : i ∈ [Instr.ecbenc, .ecbdec, .ctr] ∨ ∃ tl, i = .gcminit tl) (hkey : s.keyValid = false) :
    exec i s = raise .noKey s := by
  rcases hi with hi | ⟨tl, rfl⟩
  · simp only [List.mem_cons, List.not_mem_nil, or_false] at hi
    rcases hi with rfl | rfl | rfl <;> exact if_pos hkey
  · exact (if_neg (Nat.not_lt.mpr (of_decide_eq_true hwf))).trans (if_pos hkey)

/-- The commands that need a session report `NoSession` without it. -/
theorem exec_without_session {i : Instr} {s : State} (hi : i ∈ [Instr.ghash, .gcmenc, .gcmdec])
    (hsess : s.sessValid = false) : exec i s = raise .noSession s := by
  simp only [List.mem_cons, List.not_mem_nil, or_false] at hi
  rcases hi with rfl | rfl | rfl <;> exact if_pos hsess

/-- A command that ends with an error leaves the key and session state. -/
theorem exec_error_keeps {i : Instr} {s t : State} (hclear : s.err = false) (h : exec i s = .next t)
    (herr : t.err = true) : t.keyValid = s.keyValid ∧ t.sessValid = s.sessValid := by
  rcases exec_cases i s with ⟨tt, -, -, heq⟩ | ⟨tl, -, -, -, heq⟩ | ⟨e, heq⟩ | ⟨m, heq, -⟩ <;>
    simp only [heq, raise_next, succeed_next] at h <;> subst h
  · exact absurd (hclear.symm.trans herr) (by decide)
  · exact absurd (hclear.symm.trans herr) (by decide)
  · exact ⟨rfl, rfl⟩
  · exact ⟨rfl, rfl⟩

/-- A command that ends without error has raised none. -/
theorem exec_ne_raise {i : Instr} {s t : State} (h : exec i s = .next t) (herr : t.err = false)
    (e : ErrorKind) : exec i s ≠ raise e s := by
  intro heq
  obtain rfl := (raise_next ..).mp (heq.symm.trans h)
  cases herr

/-- A KEYEXP without error leads to the state KEYED. -/
theorem exec_keyexp_success {tt : Bool} {s t : State} (h : exec (.keyexp tt) s = .next t)
    (herr : t.err = false) : t.keyValid = true ∧ t.sessValid = false := by
  rcases execKeyexp_cases tt s with ⟨e, heq⟩ | ⟨-, -, heq⟩
  · exact absurd heq (exec_ne_raise h herr e)
  · obtain rfl := (succeed_next ..).mp (heq.symm.trans h)
    exact ⟨rfl, rfl⟩

/-- A GCMINIT without error leads from a keyed state to SESSION. -/
theorem exec_gcminit_success {tl : BitVec 8} {s t : State} (h : exec (.gcminit tl) s = .next t)
    (herr : t.err = false) : s.keyValid = true ∧ t.keyValid = true ∧ t.sessValid = true := by
  rcases execGcminit_cases tl s with ⟨e, heq⟩ | ⟨-, hkey, -, heq⟩
  · exact absurd heq (exec_ne_raise h herr e)
  · obtain rfl := (succeed_next ..).mp (heq.symm.trans h)
    exact ⟨hkey, hkey, rfl⟩

/-- A buffer command leaves the key and session state. -/
theorem exec_bufferCommand_keeps {i : Instr} {s t : State} (hi : i ∈ bufferCommands)
    (h : exec i s = .next t) : t.keyValid = s.keyValid ∧ t.sessValid = s.sessValid := by
  obtain ⟨-, hframe, -⟩ := frameOfBufferCommands i s t hi h
  exact ⟨(congrArg State.keyValid hframe :), (congrArg State.sessValid hframe :)⟩

/-- Settles O39. -/
theorem commandsMoveTheKeyAndSessionState : Obligations.CommandsMoveTheKeyAndSessionState := by
  intro i s t hwf hclear h
  refine ⟨exec_error_keeps hclear h, fun herr => ⟨?_, ?_, fun hi => exec_bufferCommand_keeps hi h, fun hi => ?_,
    fun hi => ?_⟩, fun hkey hi => ?_, fun hsess hi => ?_⟩
  · rintro tt rfl
    exact exec_keyexp_success h herr
  · rintro tl rfl
    exact exec_gcminit_success h herr
  · by_contra hkey
    exact exec_ne_raise h herr _ (exec_without_key hwf (.inl hi) (Bool.eq_false_of_not_eq_true hkey))
  · by_contra hsess
    exact exec_ne_raise h herr _ (exec_without_session hi (Bool.eq_false_of_not_eq_true hsess))
  · obtain rfl := (raise_next ..).mp ((exec_without_key hwf hi hkey).symm.trans h)
    rfl
  · obtain rfl := (raise_next ..).mp ((exec_without_session hi hsess).symm.trans h)
    rfl

/-! ### Descriptors that a command does not use (R94) -/

section

variable (f : State → State) (s : State)

/-- A change of the next state is made after a read as well as before it. -/
theorem onNext_memRead (r : Range) (k : List Byte → Result) :
    onNext f (memRead r s k) = memRead r s fun bs => onNext f (k bs) := by
  unfold memRead
  split <;> rfl

/-- A change of the next state is made after a write as well as before it. -/
theorem onNext_memWrite (off : Nat) (bs : List Byte) (k : State → Result) :
    onNext f (memWrite off bs s k) = memWrite off bs s fun u => onNext f (k u) := by
  unfold memWrite
  split <;> rfl

end

/-- ECBENC and ECBDEC use D only. -/
theorem blockInPlace_ignores (g : Block → Block) (s : State) (v w x y : Word) :
    blockInPlace g { s with aoff := v, alen := w, toff := x, tlen := y } =
      onNext (fun t => { t with aoff := v, alen := w, toff := x, tlen := y }) (blockInPlace g s) := by
  simp only [blockInPlace, apply_ite (onNext _), onNext_memRead, onNext_memWrite]
  rfl

/-- Settles O42: the change of the registers moves through the checks, reads and writes of a command to its ends,
and what is then left on the way are the same checks, reads and writes. -/
theorem unusedDescriptorsAreIgnored : Obligations.UnusedDescriptorsAreIgnored := by
  intro s v w x y
  refine ⟨fun tt => ?_, fun tl => ?_, fun i hi => ?_, ?_, fun i hi => ?_⟩
  · simp only [exec, execKeyexp, apply_ite (onNext _), onNext_memRead]
    rfl
  · simp only [exec, execGcminit, apply_ite (onNext _), onNext_memRead]
    rfl
  · simp only [List.mem_cons, List.not_mem_nil, or_false] at hi
    rcases hi with rfl | rfl
    · exact blockInPlace_ignores (encryptBlock s) s v w x y
    · exact blockInPlace_ignores (decryptBlock s) s v w x y
  · simp only [exec, execCtr, apply_ite (onNext _), onNext_memRead, onNext_memWrite]
    rfl
  · simp only [List.mem_cons, List.not_mem_nil, or_false] at hi
    rcases hi with rfl | rfl | rfl
    · simp only [exec, execGfmul, apply_ite (onNext _), onNext_memRead, onNext_memWrite]
      rfl
    · simp only [exec, execGhash, apply_ite (onNext _), onNext_memRead, onNext_memWrite]
      rfl
    · simp only [exec, execGcmenc, apply_ite (onNext _), onNext_memRead, onNext_memWrite]
      rfl

end Sys2Proof.Machine
end

section
/-! SUPPORT. The word transforms and the constants: the diffusions are linear, the substitution is a bijection, and
the constants pass the checks of the spec (`40_constants_sbox.md` R120 to R129). -/

namespace Sys2Proof.Machine

/-! ### The diffusions are linear (R128) -/

/-- Rotation distributes over XOR: at each bit one of its two shifts is 0. -/
theorem rotl32_xor (x y : Word) (n : Nat) : rotl32 (x ^^^ y) n = rotl32 x n ^^^ rotl32 y n := by
  ext i hi
  by_cases hlow : i < n
  · simp [rotl32, hlow]
  · have hright : 32 ≤ 32 - n + i := by omega
    simp [rotl32, hlow, BitVec.getLsbD_of_ge _ _ hright]

/-- `L` is linear (R128). -/
theorem diffuse_xor (x y : Word) : diffuse (x ^^^ y) = diffuse x ^^^ diffuse y := by
  simp only [diffuse, rotl32_xor]
  ac_rfl

/-- `Lp` is linear (R128). -/
theorem diffuseKey_xor (x y : Word) : diffuseKey (x ^^^ y) = diffuseKey x ^^^ diffuseKey y := by
  simp only [diffuseKey, rotl32_xor]
  ac_rfl

/-- A linear map takes 0 to 0, so a map that does not is not linear. -/
theorem not_linear_of_zero_ne {f : Word → Word} (hzero : f 0#32 ≠ 0#32) :
    ¬ ∀ x y, f (x ^^^ y) = f x ^^^ f y := by
  intro hlinear
  apply hzero
  calc f 0#32 = f (0#32 ^^^ 0#32) := by rw [BitVec.xor_self]
    _ = f 0#32 ^^^ f 0#32 := hlinear ..
    _ = 0#32 := BitVec.xor_self

/-! ### The substitution is a bijection (R120, R123) -/

/-- Bits set one after the other: bit `y` is set at the end when it was at the start or `f` takes the value `y`. -/
theorem testBit_foldl_two_pow (f : Nat → Nat) (xs : List Nat) (seen y : Nat) :
    (xs.foldl (fun seen x => seen ||| 2 ^ f x) seen).testBit y = (seen.testBit y || xs.any (f · == y)) := by
  induction xs generalizing seen with
  | nil => simp
  | cons x xs ih => simp [ih, Nat.testBit_two_pow, Bool.or_assoc, beq_eq_decide]

/-- The 256 entries of `SBOX` set every bit below 256. -/
theorem sbox_sets_every_bit :
    (List.range 256).foldl (fun seen x => seen ||| 2 ^ (sbox (BitVec.ofNat 8 x)).toNat) 0 = 2 ^ 256 - 1 := by
  decide +kernel

/-- Every byte is an entry of `SBOX` (R120). -/
theorem sbox_surjective : Function.Surjective sbox := by
  intro y
  have hset := testBit_foldl_two_pow (fun x => (sbox (BitVec.ofNat 8 x)).toNat) (List.range 256) 0 y.toNat
  rw [sbox_sets_every_bit, Nat.testBit_two_pow_sub_one, decide_eq_true y.isLt, Nat.zero_testBit, Bool.false_or,
    eq_comm, List.any_eq_true] at hset
  obtain ⟨x, -, hx⟩ := hset
  exact ⟨BitVec.ofNat 8 x, BitVec.eq_of_toNat_eq (beq_iff_eq.mp hx)⟩

/-- `SBOX` is a permutation of the bytes (R120). -/
theorem sbox_bijective : Function.Bijective sbox := Finite.surjective_iff_bijective.mp sbox_surjective

/-- `tau` substitutes each of the four bytes (R123). -/
theorem bytes32_tau (a : Word) : bytes32 (tau a) = (bytes32 a).map sbox := bytes32_append ..

/-- A word is determined by its bytes. -/
theorem bytes32_injective : Function.Injective bytes32 := Function.LeftInverse.injective be32_bytes32

theorem tau_injective : Function.Injective tau := by
  intro a b h
  have hbytes : (bytes32 a).map sbox = (bytes32 b).map sbox := by rw [← bytes32_tau, h, bytes32_tau]
  exact bytes32_injective (sbox_bijective.injective.list_map hbytes)

/-- `tau` is a bijection on words (R128). -/
theorem tau_bijective : Function.Bijective tau := Finite.injective_iff_bijective.mp tau_injective

/-- Settles O43: `tau`, `T` and `Tp` do not take 0 to 0, so they are not linear. -/
theorem wordTransformLaws : Obligations.WordTransformLaws :=
  ⟨diffuse_xor, diffuseKey_xor, by decide, by decide, by decide, by decide, tau_bijective,
    not_linear_of_zero_ne (by decide), not_linear_of_zero_ne (by decide), not_linear_of_zero_ne (by decide)⟩

/-! ### The known answer (R129 item 1, C1) -/

/-- The round keys are the words of the key schedule's iterations (R140). -/
theorem keyExpand_toList (key : Block) :
    (keyExpand key).toList = keyIterate transformKey roundConstants (keyStart key) := by
  simp [keyExpand]

/-- What KeyExpand and Enc give is the answer under the model's own reading of `L` and `Lp` (R124, R125). -/
theorem enc_knownAnswerInput :
    enc false (keyExpand knownAnswerInput) knownAnswerInput = knownAnswerUnder diffuse diffuseKey := by
  rw [enc, keyExpand_toList]
  rfl

theorem knownAnswerUnder_model : knownAnswerUnder diffuse diffuseKey = knownAnswerOutput := by decide +kernel

/-- None of the losing readings of C1 gives the source's answer. -/
theorem knownAnswerUnder_losing_readings :
    knownAnswerUnder diffuseWithoutTerm diffuseWithoutTerm ≠ knownAnswerOutput ∧
    knownAnswerUnder diffuse diffuse ≠ knownAnswerOutput ∧
    knownAnswerUnder diffuseWithoutTerm diffuseKey ≠ knownAnswerOutput ∧
    knownAnswerUnder diffuse diffuseWithoutTerm ≠ knownAnswerOutput := by decide +kernel

/-! ### The construction of `SBOX` and the law of `CK` (R129 items 2a and 3) -/

/-- `SBOX` is its algebraic construction, byte by byte. -/
theorem sbox_eq_sboxConstruction : ∀ x : Byte, sbox x = sboxConstruction x := by decide +kernel

/-- The 254th power inverts every byte but 0. -/
theorem gf256Mul_gf256Inv : ∀ x : Byte, x ≠ 0x00#8 → gf256Mul x (gf256Inv x) = 0x01#8 := by decide +kernel

theorem gf256Inv_zero : gf256Inv 0x00#8 = 0x00#8 := by decide +kernel

/-- Every byte of `CK` obeys its law. -/
theorem byteOf_roundConstants : ∀ i : Fin 32, ∀ j : Fin 4,
    byteOf (roundConstants.getD i 0#32) j = roundConstantByte i j := by decide +kernel

/-- Settles O57. -/
theorem constantsPassTheirChecks : Obligations.ConstantsPassTheirChecks := by
  refine ⟨enc_knownAnswerInput.trans knownAnswerUnder_model, knownAnswerUnder_model, ?_, sbox_bijective,
    sbox_eq_sboxConstruction, gf256Mul_gf256Inv, gf256Inv_zero,
    fun i j hi hj => byteOf_roundConstants ⟨i, hi⟩ ⟨j, hj⟩⟩
  simpa only [List.forall_mem_cons, List.not_mem_nil, false_imp_iff, implies_true, and_true]
    using knownAnswerUnder_losing_readings

end Sys2Proof.Machine
end

section
/-! SUPPORT. The key schedule runs backwards (`41_key_schedule.md` R140, R141 item 5): one iteration is one round
(R160) with a round constant for the round key, a round is injective, and four iterations leave the register holding
the four round keys they generated. -/

namespace Sys2Proof.Machine

theorem Quad.ext {x y : Quad} (h0 : x.x0 = y.x0) (h1 : x.x1 = y.x1) (h2 : x.x2 = y.x2) (h3 : x.x3 = y.x3) :
    x = y := by
  cases x; cases y; congr

/-- The words of a block make up the block (R12). -/
@[simp] theorem blockOfWords_blockWords (b : Block) : blockOfWords (blockWords b) = b := by
  rw [blockOfWords, blockWords,
    BitVec.extractLsb'_append_extractLsb'_eq_extractLsb' (show 96 = 64 + 32 from rfl),
    BitVec.extractLsb'_append_extractLsb'_eq_extractLsb' (show 64 = 32 + 32 from rfl),
    BitVec.extractLsb'_append_extractLsb'_eq_extractLsb' (show 32 = 0 + 32 from rfl), BitVec.extractLsb'_eq_self]

theorem blockWords_injective : Function.Injective blockWords :=
  Function.LeftInverse.injective blockOfWords_blockWords

/-- The register before the first iteration determines the key (R140). -/
theorem keyStart_injective : Function.Injective keyStart := by
  intro key key' h
  simp only [keyStart, Quad.mk.injEq, BitVec.xor_left_inj] at h
  obtain ⟨h0, h1, h2, h3⟩ := h
  exact blockWords_injective (Quad.ext h0 h1 h2 h3)

/-- A round can be undone: it keeps three words, and they give back what it XORs into the fourth (R160). -/
theorem round_injective (t : Word → Word) (rk : Word) : Function.Injective (round t · rk) := by
  rintro ⟨x0, x1, x2, x3⟩ ⟨y0, y1, y2, y3⟩ h
  simp only [round, Quad.mk.injEq] at h
  obtain ⟨rfl, rfl, rfl, h0⟩ := h
  rw [(BitVec.xor_left_inj _).mp h0]

/-- One iteration of the key schedule is a round whose new word is the round key (R140, R160). -/
theorem keyIterate_cons (t : Word → Word) (c : Word) (cs : List Word) (k : Quad) :
    keyIterate t (c :: cs) k = (round t k c).x3 :: keyIterate t cs (round t k c) := rfl

/-- Four round keys determine the register they were generated from: they are the register four rounds later. -/
theorem keyIterate_injective (t : Word → Word) {cs : List Word} (hlen : 4 ≤ cs.length) :
    Function.Injective (keyIterate t cs) := by
  intro k k' h
  match cs, hlen with
  | c0 :: c1 :: c2 :: c3 :: _, _ =>
    simp only [keyIterate_cons, List.cons.injEq] at h
    obtain ⟨h0, h1, h2, h3, -⟩ := h
    have hregister : round t (round t (round t (round t k c0) c1) c2) c3 =
        round t (round t (round t (round t k' c0) c1) c2) c3 := Quad.ext h0 h1 h2 h3
    exact round_injective t c0 (round_injective t c1 (round_injective t c2 (round_injective t c3 hregister)))

/-- Settles O47: the recurrence runs backwards from the first four round keys to the key. -/
theorem differentKeysDifferentRoundKeys : Obligations.DifferentKeysDifferentRoundKeys := by
  intro key key' h
  have hiterate : keyIterate transformKey roundConstants (keyStart key) =
      keyIterate transformKey roundConstants (keyStart key') := by
    rw [← keyExpand_toList, h, keyExpand_toList]
  exact keyStart_injective (keyIterate_injective transformKey (by simp [roundConstants_length]) hiterate)

end Sys2Proof.Machine
end

section
/-! SUPPORT. The block cipher (`42_block_cipher.md`): the rounds with the round keys reversed undo the rounds (R165),
and ECBENC and ECBDEC replace one block in place (R166, R167). -/

namespace Sys2Proof.Machine

/-! ### Decryption and encryption undo each other (R165) -/

/-- The words that make up a block are its words (R12). -/
@[simp] theorem blockWords_blockOfWords (q : Quad) : blockWords (blockOfWords q) = q := by
  simp (disch := omega) only [blockWords, blockOfWords, BitVec.extractLsb'_append_eq_of_le,
    BitVec.extractLsb'_append_eq_of_add_le]
  simp

/-- Reversed words under the round key of the round before: the word it XORed in cancels, since the other three
words, in whatever order, are those it was taken from (R160, R161). -/
theorem round_reverseWords_round (t : Word → Word) (x : Quad) (rk : Word) :
    round t (reverseWords (round t x rk)) rk = reverseWords x := by
  have horder : x.x3 ^^^ x.x2 ^^^ x.x1 ^^^ rk = x.x1 ^^^ x.x2 ^^^ x.x3 ^^^ rk := by ac_rfl
  simp only [round, reverseWords, horder]
  rw [BitVec.xor_assoc x.x0, BitVec.xor_self, BitVec.xor_zero]

/-- The rounds with the round keys reversed, started from the reversed words, go back to the start. -/
theorem foldl_round_reverse (t : Word → Word) (rks : List Word) (x : Quad) :
    rks.reverse.foldl (round t) (reverseWords (rks.foldl (round t) x)) = reverseWords x := by
  induction rks generalizing x with
  | nil => rfl
  | cons rk rks ih =>
    rw [List.reverse_cons, List.foldl_append, List.foldl_cons, List.foldl_cons, ih]
    exact round_reverseWords_round t x rk

/-- `Crypt` with the round keys reversed undoes `Crypt`, for every round transform (R162). -/
theorem crypt_reverse_crypt (t : Word → Word) (rks : List Word) (b : Block) :
    crypt t rks.reverse (crypt t rks b) = b := by
  rw [crypt, crypt, blockWords_blockOfWords, foldl_round_reverse]
  exact blockOfWords_blockWords b

theorem dec_enc (tsel : Bool) (rk : Vector Word 32) : Function.LeftInverse (dec tsel rk) (enc tsel rk) :=
  crypt_reverse_crypt _ _

/-- The round keys reversed twice are the round keys. -/
theorem enc_dec (tsel : Bool) (rk : Vector Word 32) : Function.RightInverse (dec tsel rk) (enc tsel rk) := by
  intro b
  have h := crypt_reverse_crypt (roundTransform tsel) rk.toList.reverse b
  rwa [List.reverse_reverse] at h

/-- Settles O46. -/
theorem blockCipherRoundTrip : Obligations.BlockCipherRoundTrip :=
  ⟨crypt_reverse_crypt, fun tsel rk => ⟨fun b => ⟨dec_enc tsel rk b, enc_dec tsel rk b⟩,
    ⟨(dec_enc tsel rk).injective, (enc_dec tsel rk).surjective⟩,
    ⟨(enc_dec tsel rk).injective, (dec_enc tsel rk).surjective⟩⟩⟩

/-! ### One block in place (R166, R167) -/

/-- A success that has filled the range `r`: it reads as what was stored, every other byte as before, and nothing
else changes but the flags (`20_memory.md` R72, R73, `30_encoding.md` R97). -/
theorem succeed_storeBytes (s : State) {r : Range} {bs : List Byte} (hlen : bs.length = r.len) :
    ∃ t, succeed { s with buf := Memory.storeBytes s.buf r.off bs } = .next t ∧
      Memory.bytes t.buf r.off r.len = bs ∧
      (∀ o, ¬ r.covers o → Memory.byteAt t.buf o = Memory.byteAt s.buf o) ∧
      t = { s with buf := t.buf, busy := false, done := true } :=
  ⟨_, rfl, hlen ▸ bytes_storeBytes_same .., fun _ => byteAt_storeBytes_uncovered hlen.le, rfl⟩

/-- With a key and one block at D inside the buffer, the checks of R166 and R167 pass. -/
theorem blockInPlace_of_checks (f : Block → Block) {s : State} (hkey : s.keyValid = true)
    (hlen : s.dlen.toNat = 16) (hin : (rangeD s).inside s.cfg) :
    blockInPlace f s = succeed { s with
      buf := Memory.storeBytes s.buf s.doff.toNat
        (bytes128 (f (be128 (Memory.bytes s.buf s.doff.toNat 16)))) } := by
  have hwrite : s.doff.toNat + 16 ≤ s.cfg.bufBytes := by simpa [hlen] using hin
  rw [blockInPlace, if_neg (by simp [hkey]), if_neg (not_not.mpr hlen), if_neg (not_not.mpr hin),
    memRead_inside _ hin, memWrite_inside _ (by simpa using hwrite), rangeD_off, rangeD_len, hlen]

/-- The block at D is replaced by its image under `f`. -/
theorem blockInPlace_replaces (f : Block → Block) {s : State} (hkey : s.keyValid = true)
    (hlen : s.dlen = 16#32) (hin : s.doff.toNat + 16 ≤ s.cfg.bufBytes) :
    ∃ t, blockInPlace f s = .next t ∧
      Memory.bytes t.buf s.doff.toNat 16 = bytes128 (f (be128 (Memory.bytes s.buf s.doff.toNat 16))) ∧
      (∀ o, ¬ (rangeD s).covers o → Memory.byteAt t.buf o = Memory.byteAt s.buf o) ∧
      t = { s with buf := t.buf, busy := false, done := true } := by
  have hlen : s.dlen.toNat = 16 := by simp [hlen]
  have hin : (rangeD s).inside s.cfg := by simpa [hlen] using hin
  have h := succeed_storeBytes s (r := rangeD s)
    (bs := bytes128 (f (be128 (Memory.bytes s.buf s.doff.toNat 16)))) (by simp [hlen])
  rwa [rangeD_off, rangeD_len, hlen, ← blockInPlace_of_checks f hkey hlen hin] at h

/-- Settles O24: ECBENC replaces the block by its encryption under the current instance. -/
theorem ecbencEncryptsInPlace : Obligations.EcbencEncryptsInPlace :=
  fun s => blockInPlace_replaces (encryptBlock s)

/-- Settles O25: ECBDEC replaces the block by its decryption under the current instance. -/
theorem ecbdecDecryptsInPlace : Obligations.EcbdecDecryptsInPlace :=
  fun s => blockInPlace_replaces (decryptBlock s)

end Sys2Proof.Machine
end

section
/-! SUPPORT. The T-table (`43_ttable.md`): its four tables are rotations of one (R183), the accelerated round
transform is the direct one, and so the strategy bit changes no result of a command (R182). -/

namespace Sys2Proof.Machine

/-! ### `L` commutes with rotation (R183) -/

/-- Bit `i` of a word rotated right by `n` is bit `n + i` of the word, counted round. -/
theorem getLsbD_rotateRight_word (x : Word) (n : Nat) {i : Nat} (hi : i < 32) :
    (x.rotateRight n).getLsbD i = x.getLsbD ((n + i) % 32) := by
  rw [BitVec.getLsbD_rotateRight, Bool.cond_decide]
  split
  · congr 1
    omega
  · rw [decide_eq_true hi, Bool.true_and]
    congr 1
    omega

/-- Rotations add up. -/
theorem rotateRight_rotateRight (x : Word) (m n : Nat) :
    (x.rotateRight m).rotateRight n = x.rotateRight (m + n) := by
  apply BitVec.eq_of_getLsbD_eq
  intro i hi
  rw [getLsbD_rotateRight_word _ _ hi, getLsbD_rotateRight_word _ _ (Nat.mod_lt _ (by decide)),
    getLsbD_rotateRight_word _ _ hi]
  congr 1
  omega

/-- Rotation distributes over XOR. -/
theorem rotateRight_xor (x y : Word) (n : Nat) :
    (x ^^^ y).rotateRight n = x.rotateRight n ^^^ y.rotateRight n := by
  apply BitVec.eq_of_getLsbD_eq
  intro i hi
  simp only [getLsbD_rotateRight_word _ _ hi, BitVec.getLsbD_xor]

/-- `w <<< n` of the spec, a rotation left, is the rotation right by the rest of the word (R13). -/
theorem rotl32_eq_rotateRight (x : Word) {n : Nat} (hpos : 0 < n) (hlt : n < 32) :
    rotl32 x n = x.rotateRight (32 - n) := by
  rw [BitVec.rotateRight_def, Nat.mod_eq_of_lt (by omega), Nat.sub_sub_self hlt.le]
  exact BitVec.or_comm ..

/-- A rotation left and a rotation right can be exchanged. -/
theorem rotl32_rotateRight (x : Word) (m : Nat) {n : Nat} (hpos : 0 < n) (hlt : n < 32) :
    rotl32 (x.rotateRight m) n = (rotl32 x n).rotateRight m := by
  rw [rotl32_eq_rotateRight _ hpos hlt, rotl32_eq_rotateRight _ hpos hlt, rotateRight_rotateRight,
    rotateRight_rotateRight, Nat.add_comm]

/-- `L` commutes with every rotation, since each of its terms does (R124, R183). -/
theorem diffuse_rotateRight (x : Word) (n : Nat) : diffuse (x.rotateRight n) = (diffuse x).rotateRight n := by
  simp (disch := decide) only [diffuse, rotl32_rotateRight, rotateRight_xor]

/-! ### Bytes in their positions (R180) -/

/-- Shifting a byte left inside a word is rotating it: only zeros leave the word at the top. -/
theorem shiftLeft_eq_rotateRight (v : Byte) {m : Nat} (hm : m ≤ 24) :
    v.setWidth 32 <<< m = (v.setWidth 32).rotateRight (32 - m) := by
  apply BitVec.eq_of_getLsbD_eq
  intro i hi
  rw [getLsbD_rotateRight_word _ _ hi, BitVec.getLsbD_shiftLeft, BitVec.getLsbD_setWidth, BitVec.getLsbD_setWidth]
  by_cases hlow : i < m
  · have hindex : (32 - m + i) % 32 = 32 - m + i := by omega
    have hzero : 8 ≤ 32 - m + i := by omega
    simp [hlow, hindex, BitVec.getLsbD_of_ge v _ hzero]
  · have hindex : (32 - m + i) % 32 = i - m := by omega
    simp [hi, hlow, hindex]

/-- A byte at the top of a word, rotated right by up to 24 bits, is the byte that many bits lower. -/
theorem shiftLeft_rotateRight (v : Byte) {n : Nat} (hn : n ≤ 24) :
    (v.setWidth 32 <<< 24).rotateRight n = v.setWidth 32 <<< (24 - n) := by
  rw [shiftLeft_eq_rotateRight v le_rfl, shiftLeft_eq_rotateRight v (Nat.sub_le 24 n), rotateRight_rotateRight]
  congr 1
  omega

/-- Table `p` is table 0 rotated right by `8p` bits (R183). -/
theorem ttable_eq_rotateRight {p : Nat} (hp : p < 4) (b : Byte) :
    ttable p b = (ttable 0 b).rotateRight (8 * p) := by
  rw [ttable, ttable, ← diffuse_rotateRight, Nat.mul_zero, Nat.sub_zero, shiftLeft_rotateRight _ (by omega)]

/-- Settles O44. -/
theorem tablesAreRotationsOfOne : Obligations.TablesAreRotationsOfOne :=
  ⟨fun _ b hp => ttable_eq_rotateRight hp b, fun n x _ => diffuse_rotateRight x n, by decide, by decide,
    by decide, by decide⟩

/-! ### The accelerated round transform is the direct one (R182) -/

/-- Four bytes in a row are the XOR of four words, each with one of them in its position and zeros elsewhere: at a
bit of one position, the other three words are 0. -/
theorem append_eq_xor (a b c d : Byte) :
    a ++ b ++ c ++ d =
      a.setWidth 32 <<< 24 ^^^ b.setWidth 32 <<< 16 ^^^ c.setWidth 32 <<< 8 ^^^ d.setWidth 32 <<< 0 := by
  apply BitVec.eq_of_getLsbD_eq
  intro i hi
  simp only [BitVec.getLsbD_append, BitVec.getLsbD_xor, BitVec.getLsbD_shiftLeft, BitVec.getLsbD_setWidth,
    Nat.sub_sub]
  have hposition : i < 8 ∨ (8 ≤ i ∧ i < 16) ∨ (16 ≤ i ∧ i < 24) ∨ 24 ≤ i := by omega
  rcases hposition with h | h | h | h <;>
    simp (disch := omega) [if_pos, if_neg, decide_eq_true, decide_eq_false, BitVec.getLsbD_of_ge]

/-- `Tacc(a) = T(a)`: `tau(a)` is the XOR of its bytes in their positions, and `L` is linear (R182). -/
theorem transformTable_eq_transform (a : Word) : transformTable a = transform a := by
  simp only [transformTable, ttable, transform, tau, append_eq_xor, diffuse_xor]

/-- `TSEL` selects between two datapaths for one function (R163, R182). -/
@[simp] theorem roundTransform_eq (tsel : Bool) : roundTransform tsel = transform := by
  cases tsel
  · rfl
  · exact funext transformTable_eq_transform

/-! ### The cipher modes do not see the strategy (R182) -/

section

variable (tsel tsel' : Bool) (rk : Vector Word 32)

theorem enc_tsel (b : Block) : enc tsel rk b = enc tsel' rk b := by
  simp only [enc, roundTransform_eq]

theorem dec_tsel (b : Block) : dec tsel rk b = dec tsel' rk b := by
  simp only [dec, roundTransform_eq]

theorem ctrIterate_tsel (n : Nat) (cb : Block) (d : List Byte) :
    ctrIterate tsel rk n cb d = ctrIterate tsel' rk n cb d := by
  induction n generalizing cb d with
  | zero => rfl
  | succ n ih => rw [ctrIterate, ctrIterate, enc_tsel tsel tsel', ih]

theorem gcmTag_tsel (h j0 : Block) (aad ct : List Byte) (n : Nat) :
    gcmTag tsel rk h j0 aad ct n = gcmTag tsel' rk h j0 aad ct n := by
  rw [gcmTag, gcmTag, enc_tsel tsel tsel']

end

section

variable (s : State) (b : Bool)

@[simp] theorem encryptBlock_with_tsel : encryptBlock { s with tsel := b } = encryptBlock s :=
  funext fun _ => enc_tsel ..

@[simp] theorem decryptBlock_with_tsel : decryptBlock { s with tsel := b } = decryptBlock s :=
  funext fun _ => dec_tsel ..

@[simp] theorem ctrBytes_with_tsel : ctrBytes { s with tsel := b } = ctrBytes s :=
  funext₂ fun _ _ => ctrIterate_tsel ..

@[simp] theorem sessionTag_with_tsel : sessionTag { s with tsel := b } = sessionTag s :=
  funext₂ fun _ _ => gcmTag_tsel ..

/-- A session is the same under either strategy (R246). -/
@[simp] theorem newSession_with_tsel (tl : BitVec 8) (nonce : List Byte) :
    newSession tl nonce { s with tsel := b } = { newSession tl nonce s with tsel := b } := by
  simp only [newSession, encryptBlock_with_tsel]

/-! ### The commands do not see the strategy (R182) -/

theorem blockInPlace_with_tsel (f : Block → Block) :
    blockInPlace f { s with tsel := b } = onNext (fun t => { t with tsel := b }) (blockInPlace f s) := by
  simp only [blockInPlace, apply_ite (onNext _), onNext_memRead, onNext_memWrite]
  rfl

/-- KEYEXP overwrites the strategy that was there when it succeeds, and leaves it when it fails (R142). -/
theorem onNext_execKeyexp_with_tsel (tt : Bool) :
    onNext (fun t => { t with tsel := b }) (execKeyexp tt { s with tsel := b }) =
      onNext (fun t => { t with tsel := b }) (execKeyexp tt s) := by
  simp only [execKeyexp, apply_ite (onNext _), onNext_memRead]
  rfl

/-- Every other command completes as under the other strategy: the change of the bit moves through its checks, reads
and writes to its ends. -/
theorem exec_with_tsel {i : Instr} (hi : ∀ tt, i ≠ .keyexp tt) :
    exec i { s with tsel := b } = onNext (fun t => { t with tsel := b }) (exec i s) := by
  cases i with
  | keyexp tt => exact absurd rfl (hi tt)
  | ecbenc =>
    simp only [exec, execEcbenc, encryptBlock_with_tsel]
    exact blockInPlace_with_tsel s b _
  | ecbdec =>
    simp only [exec, execEcbdec, decryptBlock_with_tsel]
    exact blockInPlace_with_tsel s b _
  | gfmul =>
    simp only [exec, execGfmul, apply_ite (onNext _), onNext_memRead, onNext_memWrite]
    rfl
  | ghash =>
    simp only [exec, execGhash, apply_ite (onNext _), onNext_memRead, onNext_memWrite]
    rfl
  | ctr =>
    simp only [exec, execCtr, ctrBytes_with_tsel, apply_ite (onNext _), onNext_memRead, onNext_memWrite]
    rfl
  | gcminit tl =>
    simp only [exec, execGcminit, newSession_with_tsel, apply_ite (onNext _), onNext_memRead]
    rfl
  | gcmenc =>
    simp only [exec, execGcmenc, ctrBytes_with_tsel, sessionTag_with_tsel, apply_ite (onNext _), onNext_memRead,
      onNext_memWrite]
    rfl
  | gcmdec =>
    simp only [exec, execGcmdec, ctrBytes_with_tsel, sessionTag_with_tsel, apply_ite (onNext _), onNext_memRead,
      onNext_memWrite]
    rfl

end

/-- Settles O45. -/
theorem strategyBitChangesNoResult : Obligations.StrategyBitChangesNoResult := by
  refine ⟨transformTable_eq_transform, by decide, fun rk b => ⟨enc_tsel .., dec_tsel ..⟩,
    fun i s b => ⟨exec_with_tsel s b, ?_⟩⟩
  rintro tt rfl
  exact onNext_execKeyexp_with_tsel s b tt

end Sys2Proof.Machine
end

section
/-! SUPPORT. The multiplier (`44_ghash.md` R190 to R193) on 128-bit accumulators, and its laws (R198): an additive map
that commutes with multiplication by x passes through the multiplier, multiplication by a block is such a map, and it is
the one given by its value at 1. -/

namespace Sys2Proof.Machine

/-! ### The multiplier on 128-bit accumulators (R193) -/

/-- The value where the bit is set, zero elsewhere. -/
def scale (b : Bool) (v : Block) : Block := if b then v else 0#128

theorem scale_xor (b : Bool) (v w : Block) : scale b (v ^^^ w) = scale b v ^^^ scale b w := by
  cases b <;> simp [scale]

theorem xor_scale (b c : Bool) (v : Block) : scale (b ^^ c) v = scale b v ^^^ scale c v := by
  cases b <;> cases c <;> simp [scale]

/-- Multiplication by x: a left shift, reduced by `0x87` when a bit leaves at the top (R191, R192). -/
def timesX (v : Block) : Block := v <<< 1 ^^^ scale (v.getLsbD 127) 0x87#128

/-- The iterations of R193 for bits `n-1` down to 0, on an accumulator that stays reduced. -/
def mulSteps (x y : Block) : Nat → Block → Block
  | 0, acc => acc
  | i + 1, acc => mulSteps x y i (timesX acc ^^^ scale (x.getLsbD i) y)

/-- A left shift in 129 bits keeps the bit that a shift in 128 bits loses. -/
theorem setWidth_shiftLeft_one (v : Block) :
    v.setWidth 129 <<< 1 =
      (v <<< 1).setWidth 129 ^^^ if v.getLsbD 127 then BitVec.twoPow 129 128 else 0#129 := by
  apply BitVec.eq_of_getLsbD_eq
  intro j hj
  obtain rfl | hlow : j = 128 ∨ j < 128 := by omega
  · cases htop : v.getLsbD 127 <;> simp [-BitVec.getLsbD_eq_getElem, htop]
  · cases htop : v.getLsbD 127 <;>
      simp [-BitVec.getLsbD_eq_getElem, BitVec.getLsbD_twoPow, hlow, hj, hlow.ne', show j - 1 < 129 by omega]

/-- On a reduced accumulator an iteration multiplies by x and adds: the bit that leaves at the top is cancelled by the
top bit of the polynomial, whose other bits are `0x87`. -/
theorem gfStep_setWidth (x y : Block) (i : Nat) (acc : Block) :
    gfStep x y i (acc.setWidth 129) = (timesX acc ^^^ scale (x.getLsbD i) y).setWidth 129 := by
  have hpoly : polynomial = (0x87#128).setWidth 129 ^^^ BitVec.twoPow 129 128 := by decide
  have hadded : (if x.getLsbD i then acc.setWidth 129 <<< 1 ^^^ y.setWidth 129 else acc.setWidth 129 <<< 1) =
      (acc <<< 1 ^^^ scale (x.getLsbD i) y).setWidth 129 ^^^
        if acc.getLsbD 127 then BitVec.twoPow 129 128 else 0#129 := by
    rw [setWidth_shiftLeft_one, BitVec.setWidth_xor]
    cases x.getLsbD i
    · simp [scale]
    · simp only [scale, if_true]
      ac_rfl
  have hcancel (a p b t : BitVec 129) : a ^^^ b ^^^ t ^^^ (p ^^^ t) = a ^^^ p ^^^ b := by
    calc a ^^^ b ^^^ t ^^^ (p ^^^ t) = a ^^^ p ^^^ b ^^^ (t ^^^ t) := by ac_rfl
      _ = a ^^^ p ^^^ b := by rw [BitVec.xor_self, BitVec.xor_zero]
  simp only [gfStep, hadded, timesX, BitVec.setWidth_xor]
  cases acc.getLsbD 127
  · simp [-BitVec.getLsbD_eq_getElem, scale]
  · simp [-BitVec.getLsbD_eq_getElem, scale, hpoly, hcancel]

theorem gfIterate_setWidth (x y : Block) (n : Nat) (acc : Block) :
    gfIterate x y n (acc.setWidth 129) = (mulSteps x y n acc).setWidth 129 := by
  induction n generalizing acc with
  | zero => rfl
  | succ i ih => rw [gfIterate, gfStep_setWidth, ih, mulSteps]

theorem gfmul_eq_mulSteps (x y : Block) : gfmul x y = mulSteps x y 128 0#128 := by
  rw [gfmul, show 0#129 = (0#128).setWidth 129 from rfl, gfIterate_setWidth]
  simp

/-! ### Maps that commute with multiplication by x (R198) -/

/-- A map that is additive and commutes with multiplication by x: linear over the polynomials in x. -/
structure GfLinear (f : Block → Block) : Prop where
  map_xor : ∀ a b, f (a ^^^ b) = f a ^^^ f b
  map_timesX : ∀ a, f (timesX a) = timesX (f a)

theorem timesX_xor (a b : Block) : timesX (a ^^^ b) = timesX a ^^^ timesX b := by
  simp only [timesX, BitVec.shiftLeft_xor_distrib, BitVec.getLsbD_xor, xor_scale]
  ac_rfl

theorem timesX_gfLinear : GfLinear timesX := ⟨timesX_xor, fun _ => rfl⟩

theorem GfLinear.map_zero {f : Block → Block} (hf : GfLinear f) : f 0#128 = 0#128 := by
  simpa using hf.map_xor 0#128 0#128

theorem GfLinear.map_scale {f : Block → Block} (hf : GfLinear f) (b : Bool) (v : Block) :
    f (scale b v) = scale b (f v) := by
  cases b
  · exact hf.map_zero
  · rfl

/-- A linear map passes through the iterations. -/
theorem GfLinear.map_mulSteps {f : Block → Block} (hf : GfLinear f) (x y : Block) (n : Nat) (acc : Block) :
    f (mulSteps x y n acc) = mulSteps x (f y) n (f acc) := by
  induction n generalizing acc with
  | zero => rfl
  | succ i ih => rw [mulSteps, mulSteps, ih, hf.map_xor, hf.map_timesX, hf.map_scale]

/-- A linear map takes multiples of `y` to the same multiples of its image. -/
theorem GfLinear.map_gfmul {f : Block → Block} (hf : GfLinear f) (x y : Block) :
    f (gfmul x y) = gfmul x (f y) := by
  rw [gfmul_eq_mulSteps, gfmul_eq_mulSteps, hf.map_mulSteps, hf.map_zero]

theorem mulSteps_xor (x y z : Block) (n : Nat) (a b : Block) :
    mulSteps x (y ^^^ z) n (a ^^^ b) = mulSteps x y n a ^^^ mulSteps x z n b := by
  induction n generalizing a b with
  | zero => rfl
  | succ i ih =>
    have hacc : timesX (a ^^^ b) ^^^ scale (x.getLsbD i) (y ^^^ z) =
        timesX a ^^^ scale (x.getLsbD i) y ^^^ (timesX b ^^^ scale (x.getLsbD i) z) := by
      rw [timesX_xor, scale_xor]
      ac_rfl
    rw [mulSteps, mulSteps, mulSteps, hacc, ih]

theorem gfmul_xor (x a b : Block) : gfmul x (a ^^^ b) = gfmul x a ^^^ gfmul x b := by
  simpa only [gfmul_eq_mulSteps, BitVec.xor_zero] using mulSteps_xor x a b 128 0#128 0#128

theorem gfmul_gfLinear (x : Block) : GfLinear (gfmul x) :=
  ⟨gfmul_xor x, fun a => (timesX_gfLinear.map_gfmul x a).symm⟩

/-- With the multiplicand 1 the accumulator takes in the bits of `x` from the top. -/
theorem mulSteps_one (x : Block) (n : Nat) (hn : n ≤ 128) : mulSteps x 1#128 n (x >>> n) = x := by
  induction n with
  | zero => simp [mulSteps]
  | succ i ih =>
    have hstep : timesX (x >>> (i + 1)) ^^^ scale (x.getLsbD i) 1#128 = x >>> i := by
      have htop : (x >>> (i + 1)).getLsbD 127 = false := by simp [BitVec.getLsbD_of_ge]
      rw [timesX, htop]
      apply BitVec.eq_of_getLsbD_eq
      intro j hj
      cases j with
      | zero => cases hx : x.getLsbD i <;> simp [scale, hx]
      | succ j => cases hx : x.getLsbD i <;> simp [scale, hj, show i + 1 + j = i + (j + 1) by omega]
    rw [mulSteps, hstep, ih (by omega)]

@[simp] theorem gfmul_one (x : Block) : gfmul x 1#128 = x := by
  simpa [gfmul_eq_mulSteps, BitVec.ushiftRight_eq_zero] using mulSteps_one x 128 le_rfl

/-- A linear map is multiplication by its value at 1. -/
theorem GfLinear.eq_gfmul {f : Block → Block} (hf : GfLinear f) (x : Block) : f x = gfmul x (f 1#128) := by
  rw [← hf.map_gfmul, gfmul_one]

/-- Multiplication by `x` is the linear map whose value at 1 is `x`. -/
theorem gfmul_comm (x y : Block) : gfmul x y = gfmul y x := by
  rw [(gfmul_gfLinear x).eq_gfmul, gfmul_one]

/-- Multiplication by `z`, being linear, takes multiples to multiples. -/
theorem gfmul_assoc (x y z : Block) : gfmul (gfmul x y) z = gfmul x (gfmul y z) := by
  rw [gfmul_comm _ z, (gfmul_gfLinear z).map_gfmul, gfmul_comm z]

/-- Settles O49. -/
theorem multiplierIsCommutativeAndAssociative : Obligations.MultiplierIsCommutativeAndAssociative :=
  ⟨gfmul_comm, gfmul_assoc⟩

@[simp] theorem gfmul_zero (x : Block) : gfmul x 0#128 = 0#128 := (gfmul_gfLinear x).map_zero

theorem xor_gfmul (a b c : Block) : gfmul (a ^^^ b) c = gfmul a c ^^^ gfmul b c := by
  simp only [gfmul_comm _ c, gfmul_xor]

/-- Multiplication by 2 is multiplication by x, since `timesX` takes 1 to 2. -/
theorem gfmul_two (y : Block) : gfmul 2#128 y = if y.getLsbD 127 then (y <<< 1) ^^^ 0x87#128 else y <<< 1 := by
  have hone : timesX 1#128 = 2#128 := by decide
  rw [gfmul_comm, ← hone, ← timesX_gfLinear.eq_gfmul, timesX]
  cases y.getLsbD 127
  · exact BitVec.xor_zero
  · rfl

@[simp] theorem zero_gfmul (y : Block) : gfmul 0#128 y = 0#128 := by rw [gfmul_comm, gfmul_zero]

@[simp] theorem one_gfmul (y : Block) : gfmul 1#128 y = y := by rw [gfmul_comm, gfmul_one]

/-- Settles O48. -/
theorem multiplierUnitAndDistributivity : Obligations.MultiplierUnitAndDistributivity :=
  ⟨zero_gfmul, gfmul_zero, one_gfmul, gfmul_one, gfmul_two, xor_gfmul, gfmul_xor⟩

end Sys2Proof.Machine
end

section
/-! SUPPORT. The hash (`44_ghash.md` R194 to R197): it is a fold that is additive in the bytes, and so linear in data of
fixed lengths (R199); and GFMUL and GHASH write the product and the hash to T16 (R200, R201). -/

namespace Sys2Proof.Machine

/-! ### The hash as a fold over bytes (R196, R197) -/

/-- The bytes that are hashed (R196). -/
def hashBytes (aad ct : List Byte) : List Byte := pad16 aad ++ pad16 ct ++ lenBlock aad ct

/-- The fold of R197 over the first `m` blocks of a byte sequence, from `y`. -/
def hashFold (h : Block) (m : Nat) (s : List Byte) (y : Block) : Block :=
  (blocksOf m s).foldl (fun y b => gfmul (y ^^^ b) h) y

theorem ghash_eq_hashFold (h : Block) (aad ct : List Byte) :
    ghash h aad ct = hashFold h ((hashBytes aad ct).length / 16) (hashBytes aad ct) 0#128 := rfl

theorem hashFold_succ (h : Block) (m : Nat) (s : List Byte) (y : Block) :
    hashFold h (m + 1) s y = hashFold h m (s.drop 16) (gfmul (y ^^^ be128 (s.take 16)) h) := rfl

theorem be128_xorBytes {a b : List Byte} (hlen : a.length = b.length) :
    be128 (xorBytes a b) = be128 a ^^^ be128 b := by
  apply BitVec.eq_of_getLsbD_eq
  intro i hi
  rw [BitVec.getLsbD_xor, be128, be128, be128, getLsbD_packed _ _ hi, getLsbD_packed _ _ hi, getLsbD_packed _ _ hi]
  by_cases hin : i / 8 < a.length
  · simp [hlen ▸ hin, hlen, getElem_xorBytes]
  · simp [hin, hlen ▸ hin]

/-- The fold is additive in the bytes and the start together. -/
theorem hashFold_xor (h : Block) (m : Nat) {s t : List Byte} (hlen : s.length = t.length) (y z : Block) :
    hashFold h m (xorBytes s t) (y ^^^ z) = hashFold h m s y ^^^ hashFold h m t z := by
  induction m generalizing s t y z with
  | zero => rfl
  | succ m ih =>
    have htake : be128 ((xorBytes s t).take 16) = be128 (s.take 16) ^^^ be128 (t.take 16) := by
      rw [xorBytes, List.take_zipWith]
      exact be128_xorBytes (by simp [hlen])
    have hacc : y ^^^ z ^^^ (be128 (s.take 16) ^^^ be128 (t.take 16)) =
        y ^^^ be128 (s.take 16) ^^^ (z ^^^ be128 (t.take 16)) := by ac_rfl
    simp only [hashFold_succ]
    rw [← ih (by simp [hlen]), htake, hacc, xor_gfmul, xorBytes, List.drop_zipWith, xorBytes]

theorem hashFold_zero_subkey (m : Nat) (s : List Byte) : hashFold 0#128 m s 0#128 = 0#128 := by
  induction m generalizing s with
  | zero => rfl
  | succ m ih => rw [hashFold_succ, gfmul_zero, ih]

/-! ### The bytes that are hashed, under XOR (R194 to R196) -/

@[simp] theorem zeroBytes_length (n : Nat) : (zeroBytes n).length = n := List.length_replicate

@[simp] theorem xorBytes_zeroBytes (s : List Byte) : xorBytes s (zeroBytes s.length) = s :=
  List.ext_getElem (by simp) fun j _ _ => by simp [getElem_xorBytes, zeroBytes]

@[simp] theorem xorBytes_xorBytes_same (s : List Byte) : xorBytes (xorBytes s s) s = s :=
  List.ext_getElem (by simp) fun j _ _ => by simp [getElem_xorBytes]

theorem xorBytes_append {a b : List Byte} (hlen : a.length = b.length) (s t : List Byte) :
    xorBytes (a ++ s) (b ++ t) = xorBytes a b ++ xorBytes s t := List.zipWith_append hlen

/-- Padding commutes with XOR: the padding depends on the length only, and zeros XOR to zeros. -/
theorem pad16_xorBytes {a b : List Byte} (hlen : a.length = b.length) :
    pad16 (xorBytes a b) = xorBytes (pad16 a) (pad16 b) := by
  have hzero (n : Nat) : xorBytes (zeroBytes n) (zeroBytes n) = zeroBytes n := by
    simpa using xorBytes_zeroBytes (zeroBytes n)
  rw [pad16, pad16, pad16, xorBytes_append hlen, xorBytes_length, ← hlen, min_self, hzero]

theorem lenBlock_congr {a a' c c' : List Byte} (ha : a.length = a'.length) (hc : c.length = c'.length) :
    lenBlock a c = lenBlock a' c' := by rw [lenBlock, lenBlock, ha, hc]

theorem hashBytes_length_congr {a a' c c' : List Byte} (ha : a.length = a'.length) (hc : c.length = c'.length) :
    (hashBytes a c).length = (hashBytes a' c').length := by
  simp only [hashBytes, List.length_append, pad16_length, lenBlock_length, ha, hc]

/-- The hashed bytes of an XOR: the length blocks of two summands cancel, and the third, of zeros, puts one back. -/
theorem hashBytes_xorBytes {a a' c c' : List Byte} (ha : a.length = a'.length) (hc : c.length = c'.length) :
    hashBytes (xorBytes a a') (xorBytes c c') =
      xorBytes (xorBytes (hashBytes a c) (hashBytes a' c'))
        (hashBytes (zeroBytes a.length) (zeroBytes c.length)) := by
  have hpad {s t : List Byte} (hlen : s.length = t.length) :
      pad16 (xorBytes s t) = xorBytes (xorBytes (pad16 s) (pad16 t)) (pad16 (zeroBytes s.length)) := by
    have hxor : (xorBytes s t).length = s.length := by simp [hlen]
    rw [← pad16_xorBytes hlen, ← pad16_xorBytes (by simp [hlen]), ← hxor, xorBytes_zeroBytes]
  have hlenXor : lenBlock (xorBytes a a') (xorBytes c c') = lenBlock a c :=
    lenBlock_congr (by simp [ha]) (by simp [hc])
  have hlenZero : lenBlock (zeroBytes a.length) (zeroBytes c.length) = lenBlock a c :=
    lenBlock_congr (by simp) (by simp)
  simp (disch := simp [pad16_length, ha, hc]) only [hashBytes, hpad ha, hpad hc, hlenXor, hlenZero,
    lenBlock_congr ha.symm hc.symm, xorBytes_append, xorBytes_xorBytes_same]

/-- The hash is linear in data of fixed lengths (R199 item 6). -/
theorem ghash_xorBytes (h : Block) {a a' c c' : List Byte} (ha : a.length = a'.length) (hc : c.length = c'.length) :
    ghash h (xorBytes a a') (xorBytes c c') =
      ghash h a c ^^^ ghash h a' c' ^^^ ghash h (zeroBytes a.length) (zeroBytes c.length) := by
  have hlen : (hashBytes a c).length = (hashBytes a' c').length := hashBytes_length_congr ha hc
  have hzero : (hashBytes (zeroBytes a.length) (zeroBytes c.length)).length = (hashBytes a c).length :=
    hashBytes_length_congr (by simp) (by simp)
  have hxor : (hashBytes (xorBytes a a') (xorBytes c c')).length = (hashBytes a c).length :=
    hashBytes_length_congr (by simp [ha]) (by simp [hc])
  simp only [ghash_eq_hashFold, hxor, hzero, ← hlen]
  rw [← hashFold_xor h _ hlen, ← hashFold_xor h _ (by simp [hlen, hzero]), hashBytes_xorBytes ha hc,
    BitVec.xor_self, BitVec.xor_self]

/-- The hash of nothing: its one block, the lengths, is zero (R199 item 1). -/
theorem ghash_nil_nil (h : Block) : ghash h [] [] = 0#128 := by
  rw [ghash, show hashBlocks [] [] = [0#128] by decide, List.foldl_cons, List.foldl_nil, BitVec.xor_self, zero_gfmul]

/-- Under the zero subkey every fold ends in zero (R199 item 3). -/
theorem ghash_zero_subkey (aad ct : List Byte) : ghash 0#128 aad ct = 0#128 := hashFold_zero_subkey ..

/-- Settles O50. -/
theorem hashCornersAndLinearity : Obligations.HashCornersAndLinearity :=
  ⟨ghash_nil_nil, ghash_zero_subkey, fun h _ _ _ _ ha hc => ghash_xorBytes h ha hc⟩

/-! ### GFMUL and GHASH (R200, R201) -/

/-- The checks, reads and writes that GFMUL and GHASH share: `f` of the bytes at A and D to T16. -/
def writeT16 (f : List Byte → List Byte → Block) (s : State) : Result :=
  if ¬ (rangeA s).inside s.cfg ∨ ¬ (rangeD s).inside s.cfg ∨ ¬ (rangeT16 s).inside s.cfg then
    raise .badOperand s
  else if (rangeT16 s).overlaps (rangeA s) ∨ (rangeT16 s).overlaps (rangeD s) then raise .badOperand s
  else
    memRead (rangeA s) s fun a =>
    memRead (rangeD s) s fun d =>
    memWrite (rangeT16 s).off (bytes128 (f a d)) s succeed

theorem exec_gfmul (s : State) :
    exec .gfmul s = if s.alen.toNat ≠ 16 ∨ s.dlen.toNat ≠ 16 then raise .invalidBlockLength s
      else writeT16 (fun x y => gfmul (be128 x) (be128 y)) s := rfl

theorem exec_ghash (s : State) :
    exec .ghash s = if s.sessValid = false then raise .noSession s else writeT16 (ghash s.h) s := rfl

/-- With the ranges inside the buffer and T16 apart from A and D, the value is written to T16. -/
theorem writeT16_writes (f : List Byte → List Byte → Block) {s : State} (hA : (rangeA s).inside s.cfg)
    (hD : (rangeD s).inside s.cfg) (hT : (rangeT16 s).inside s.cfg)
    (hTA : ¬ (rangeT16 s).overlaps (rangeA s)) (hTD : ¬ (rangeT16 s).overlaps (rangeD s)) :
    ∃ t, writeT16 f s = .next t ∧
      Memory.bytes t.buf s.toff.toNat 16 =
        bytes128 (f (Memory.bytes s.buf s.aoff.toNat s.alen.toNat)
          (Memory.bytes s.buf s.doff.toNat s.dlen.toNat)) ∧
      (∀ o, ¬ (rangeT16 s).covers o → Memory.byteAt t.buf o = Memory.byteAt s.buf o) ∧
      t = { s with buf := t.buf, busy := false, done := true } := by
  rw [writeT16, if_neg (by simp only [hA, hD, hT, not_true, or_self, not_false_iff]),
    if_neg (not_or.mpr ⟨hTA, hTD⟩), memRead_inside _ hA, memRead_inside _ hD, memWrite_inside _ (by simpa using hT)]
  exact succeed_storeBytes s (r := rangeT16 s) (bytes128_length _)

/-- Settles O26. -/
theorem gfmulWritesTheProduct : Obligations.GfmulWritesTheProduct := by
  intro s ha hd hA hD hT hTA hTD
  have ha : s.alen.toNat = 16 := by rw [ha]; rfl
  have hd : s.dlen.toNat = 16 := by rw [hd]; rfl
  have h := writeT16_writes (fun x y => gfmul (be128 x) (be128 y)) hA hD hT hTA hTD
  rw [ha, hd] at h
  rwa [exec_gfmul, if_neg (by simp [ha, hd])]

/-- Settles O27. -/
theorem ghashWritesTheHash : Obligations.GhashWritesTheHash := by
  intro s hsess hA hD hT hTA hTD
  rw [exec_ghash, if_neg (by simp [hsess])]
  exact writeT16_writes (ghash s.h) hA hD hT hTA hTD

end Sys2Proof.Machine
end

section
/-! SUPPORT. Counter mode (`45_ctr.md`): each byte of the output is the input's XOR one keystream byte, so the mode
undoes itself (R220, R222); and CTR applies it to the bytes at D (R224). -/

namespace Sys2Proof.Machine

/-! ### The counter increment (R220) -/

/-- The first twelve bytes of the increment. -/
@[simp] theorem inc32_high (cb : Block) : (inc32 cb).extractLsb' 32 96 = cb.extractLsb' 32 96 :=
  BitVec.extractLsb'_append_eq_left

/-- The last four bytes of the increment. -/
@[simp] theorem inc32_low (cb : Block) : (inc32 cb).extractLsb' 0 32 = cb.extractLsb' 0 32 + 1#32 :=
  BitVec.extractLsb'_append_eq_right

/-- A counter block is its first twelve bytes and its last four. -/
theorem high_append_low (cb : Block) : cb.extractLsb' 32 96 ++ cb.extractLsb' 0 32 = cb := by
  rw [BitVec.extractLsb'_append_extractLsb'_eq_extractLsb' (show 32 = 0 + 32 from rfl), BitVec.extractLsb'_eq_self]

/-- `n` increments add `n` to the last four bytes. -/
theorem iterate_inc32 (n : Nat) (cb : Block) :
    inc32^[n] cb = cb.extractLsb' 32 96 ++ (cb.extractLsb' 0 32 + BitVec.ofNat 32 n) := by
  induction n generalizing cb with
  | zero => simp [high_append_low]
  | succ n ih =>
    rw [Function.iterate_succ_apply, ih, inc32_high, inc32_low, BitVec.add_assoc, ← BitVec.ofNat_add,
      Nat.add_comm 1 n]

/-- The counter wraps (R220). -/
theorem iterate_inc32_two_pow (cb : Block) : inc32^[2 ^ 32] cb = cb := by
  have hzero : BitVec.ofNat 32 (2 ^ 32) = 0#32 := by decide
  rw [iterate_inc32, hzero, BitVec.add_zero, high_append_low]

/-! ### The keystream (R221, R222) -/

/-- Byte `k` of the keystream from the counter block `cb`: byte `k mod 16` of the encryption of the counter block that
stands `k div 16` increments after `cb` (R222). -/
def keystreamByte (tsel : Bool) (rk : Vector Word 32) (cb : Block) (k : Nat) : Byte :=
  byteOf (enc tsel rk (inc32^[k / 16] cb)) (k % 16)

/-- The first 16 keystream bytes are the encryption of the counter block itself. -/
theorem keystreamByte_of_lt (tsel : Bool) (rk : Vector Word 32) (cb : Block) {k : Nat} (hk : k < 16) :
    keystreamByte tsel rk cb k = byteOf (enc tsel rk cb) k := by
  rw [keystreamByte, Nat.div_eq_of_lt hk, Nat.mod_eq_of_lt hk, Function.iterate_zero_apply]

/-- From byte 16 on the keystream is that of the next counter block. -/
theorem keystreamByte_add_block (tsel : Bool) (rk : Vector Word 32) (cb : Block) (k : Nat) :
    keystreamByte tsel rk cb (16 + k) = keystreamByte tsel rk (inc32 cb) k := by
  rw [keystreamByte, Nat.add_div_left k (by decide), Nat.add_mod_left, Function.iterate_succ_apply, keystreamByte]

/-- `n` iterations, enough for the data, XOR byte `k` of the data with byte `k` of the keystream. -/
theorem getElem_ctrIterate (tsel : Bool) (rk : Vector Word 32) (n : Nat) (cb : Block) {d : List Byte}
    (h : d.length ≤ 16 * n) {k : Nat} (hk : k < (ctrIterate tsel rk n cb d).length) :
    (ctrIterate tsel rk n cb d)[k] =
      d[k]'(by rwa [ctrIterate_length _ _ _ _ _ h] at hk) ^^^ keystreamByte tsel rk cb k := by
  have hkd : k < d.length := by rwa [ctrIterate_length _ _ _ _ _ h] at hk
  induction n generalizing cb d k with
  | zero => omega
  | succ n ih =>
    simp only [ctrIterate]
    by_cases hk16 : k < 16
    · rw [List.getElem_append_left (by simp; omega), getElem_xorBytes, List.getElem_take, getElem_bytes128,
        keystreamByte_of_lt tsel rk cb hk16]
    · obtain ⟨j, rfl⟩ := Nat.exists_eq_add_of_le (Nat.le_of_not_lt hk16)
      have hfull : (xorBytes (d.take 16) (bytes128 (enc tsel rk cb))).length = 16 := by simp; omega
      have hrest : (d.drop 16).length ≤ 16 * n := by rw [List.length_drop]; omega
      have hj : j < (d.drop 16).length := by rw [List.length_drop]; omega
      simp only [List.getElem_append_right (hfull.trans_le (Nat.le_add_right ..)), hfull, Nat.add_sub_cancel_left]
      rw [ih (inc32 cb) hrest _ hj, List.getElem_drop, keystreamByte_add_block]

theorem getElem_ctrMode (tsel : Bool) (rk : Vector Word 32) (icb : Block) (d : List Byte) {k : Nat}
    (hk : k < (ctrMode tsel rk icb d).length) :
    (ctrMode tsel rk icb d)[k] = d[k]'(by simpa using hk) ^^^ keystreamByte tsel rk icb k :=
  getElem_ctrIterate tsel rk _ icb (by omega) hk

/-- A keystream byte XORed in twice cancels (R222). -/
theorem ctrMode_ctrMode (tsel : Bool) (rk : Vector Word 32) (icb : Block) (d : List Byte) :
    ctrMode tsel rk icb (ctrMode tsel rk icb d) = d := by
  apply List.ext_getElem (by simp)
  intro k _ _
  rw [getElem_ctrMode, getElem_ctrMode, BitVec.xor_assoc, BitVec.xor_self, BitVec.xor_zero]

/-- Settles O51: byte by byte through the keystream; the increment through its twelve and its four bytes. -/
theorem counterModeLaws : Obligations.CounterModeLaws := by
  refine ⟨fun tsel rk icb d => ⟨ctrMode_ctrMode tsel rk icb d, ctrMode_length tsel rk icb d, fun k hk => ?_⟩,
    fun cb => ⟨inc32_high cb, inc32_low cb, iterate_inc32_two_pow cb⟩⟩
  rw [List.getElem?_eq_getElem (by simpa using hk), getElem_ctrMode, List.getD_eq_getElem d _ hk, keystreamByte]

/-! ### CTR (R224) -/

/-- Memories that agree on a range read the same there. -/
theorem bytes_congr {m m' : Memory} {r : Range} (h : ∀ o, r.covers o → Memory.byteAt m o = Memory.byteAt m' o) :
    Memory.bytes m r.off r.len = Memory.bytes m' r.off r.len := by
  apply List.ext_getElem (by simp)
  intro j hj _
  rw [bytes_length] at hj
  rw [getElem_bytes, getElem_bytes, h _ ⟨by omega, by omega⟩]

/-- With a key, one block at A, and A and D inside the buffer and apart, the checks of R224 pass. -/
theorem execCtr_of_checks {s : State} (hkey : s.keyValid = true) (hlen : s.alen.toNat = 16)
    (hA : (rangeA s).inside s.cfg) (hD : (rangeD s).inside s.cfg) (hapart : ¬ (rangeD s).overlaps (rangeA s)) :
    execCtr s = succeed { s with
      buf := Memory.storeBytes s.buf (rangeD s).off
        (ctrBytes s (be128 (Memory.bytes s.buf s.aoff.toNat 16)) (Memory.bytes s.buf s.doff.toNat s.dlen.toNat)) } := by
  rw [execCtr, if_neg (by simp [hkey]), if_neg (not_not.mpr hlen),
    if_neg (by simp only [hA, hD, not_true, or_self, not_false_iff]), if_neg hapart,
    memRead_inside _ hA, memRead_inside _ hD, memWrite_inside _ (by simpa using hD), rangeA_off, rangeA_len, hlen,
    rangeD_off, rangeD_len]

/-- Settles O28: the counter block at A lies outside D, so the frame of the write keeps it. -/
theorem ctrXorsTheKeystream : Obligations.CtrXorsTheKeystream := by
  intro s hkey hlen hA hD hapart
  have hlen : s.alen.toNat = 16 := by simp [hlen]
  obtain ⟨t, ht, hdata, hframe, hrest⟩ := succeed_storeBytes s (r := rangeD s)
    (bs := ctrBytes s (be128 (Memory.bytes s.buf s.aoff.toNat 16)) (Memory.bytes s.buf s.doff.toNat s.dlen.toNat))
    (by simp)
  have hcounter : Memory.bytes t.buf (rangeA s).off (rangeA s).len = Memory.bytes s.buf (rangeA s).off (rangeA s).len :=
    bytes_congr fun o ho => hframe o (not_covers_of_apart (mt (overlaps_comm ..).mp hapart) ho)
  rw [rangeA_off, rangeA_len, hlen] at hcounter
  exact ⟨t, (execCtr_of_checks hkey hlen hA hD hapart).trans ht, hdata, hcounter, hframe, hrest⟩

end Sys2Proof.Machine
end

section
/-! SUPPORT. The GCM construction and its commands (`46_gcm.md`): the initial counter, the tag and its comparison
(R241 to R245), what GCMINIT, GCMENC and GCMDEC do (R246 to R248), and the round trip of the last two (R249). -/

namespace Sys2Proof.Machine

/-! ### The initial counter (R241) -/

theorem deriveJ0_of_length_eq (h : Block) {nonce : List Byte} (hlen : nonce.length = 12) :
    deriveJ0 h nonce = be128 (nonce ++ [0x00#8, 0x00#8, 0x00#8, 0x01#8]) := if_pos hlen

theorem deriveJ0_of_length_ne (h : Block) {nonce : List Byte} (hlen : nonce.length ≠ 12) :
    deriveJ0 h nonce = ghash h [] nonce := if_neg hlen

/-- Settles O52. -/
theorem initialCounterOfANonce : Obligations.InitialCounterOfANonce := by
  refine ⟨fun h nonce hlen => ?_, fun h _ => deriveJ0_of_length_ne h, fun h => ?_⟩
  · rw [deriveJ0_of_length_eq h hlen, bytes128_be128 (by simp [hlen])]
  · rw [deriveJ0_of_length_ne h (by simp), ghash_nil_nil]

/-! ### The tag comparison (R245) -/

/-- The accumulator ends at zero exactly when it began there and no byte differed. -/
theorem tagDiff_eq_zero_iff {a b : List Byte} (hlen : a.length = b.length) (diff : Byte) :
    tagDiff a b diff = 0#8 ↔ diff = 0#8 ∧ a = b := by
  induction a generalizing b diff with
  | nil =>
    obtain rfl := List.length_eq_zero_iff.mp hlen.symm
    simp [tagDiff]
  | cons x a ih =>
    cases b with
    | nil => simp at hlen
    | cons y b =>
      rw [tagDiff, ih (by simpa using hlen), BitVec.or_eq_zero_iff, BitVec.xor_eq_zero_iff, List.cons.injEq, and_assoc]

theorem tagEqual_iff {a b : List Byte} (hlen : a.length = b.length) : tagEqual a b = true ↔ a = b := by
  rw [tagEqual, beq_iff_eq, tagDiff_eq_zero_iff hlen, and_iff_right rfl]

/-- Settles O53. -/
theorem tagComparisonIsEquality : Obligations.TagComparisonIsEquality := fun _ _ => tagEqual_iff

/-! ### The tag and its mask (R242 to R244) -/

theorem xorBytes_bytes128 (v w : Block) : xorBytes (bytes128 v) (bytes128 w) = bytes128 (v ^^^ w) := by
  rw [← bytes128_be128 (bs := xorBytes _ _) (by simp), be128_xorBytes (by simp), be128_bytes128, be128_bytes128]

/-- With `n = 16` nothing is dropped (R244). -/
theorem gcmTag_full (tsel : Bool) (rk : Vector Word 32) (h j0 : Block) (aad ct : List Byte) :
    gcmTag tsel rk h j0 aad ct 16 = bytes128 (ghash h aad ct ^^^ enc tsel rk j0) :=
  List.take_of_length_le (by simp)

/-- The first block of counter mode is XORed with the encryption of the initial counter block itself (R242). -/
theorem take_ctrMode (tsel : Bool) (rk : Vector Word 32) (icb : Block) (d : List Byte) :
    (ctrMode tsel rk icb d).take 16 = xorBytes (d.take 16) (bytes128 (enc tsel rk icb)) := by
  apply List.ext_getElem (by simp)
  intro k hk _
  have hk16 : k < 16 := hk.trans_le (List.length_take_le ..)
  rw [List.getElem_take, getElem_ctrMode, keystreamByte_of_lt tsel rk icb hk16, getElem_xorBytes, List.getElem_take,
    getElem_bytes128]

/-- What is XORed in twice cancels. -/
theorem xorBytes_xorBytes_cancel {a b : List Byte} (hlen : a.length = b.length) :
    xorBytes (xorBytes a b) a = b := by
  apply List.ext_getElem (by simp [hlen])
  intro j _ _
  rw [getElem_xorBytes, getElem_xorBytes, BitVec.xor_comm, ← BitVec.xor_assoc, BitVec.xor_self, BitVec.zero_xor]

/-- Settles O54. -/
theorem tagTruncationAndSharedMask : Obligations.TagTruncationAndSharedMask := by
  intro tsel rk h j0 aad pt n hn
  refine ⟨?_, gcmTag_length tsel rk h j0 aad pt n hn, ?_, fun hblock => ?_⟩
  · rw [gcmTag_full, gcmTag]
  · rw [gcmTag_full, xorBytes_bytes128, BitVec.xor_assoc, BitVec.xor_self, BitVec.xor_zero]
  · rw [take_ctrMode, xorBytes_xorBytes_cancel (by simpa using hblock)]

/-! ### GCMINIT (R246) -/

theorem configuredTagLen_toNat {tl : BitVec 8} (h : tl.toNat ≤ 16) :
    (configuredTagLen tl).toNat = if tl = 0#8 then 16 else tl.toNat := by
  rw [configuredTagLen, apply_ite BitVec.toNat, BitVec.toNat_setWidth, Nat.mod_eq_of_lt (by omega)]
  rfl

/-- With a legal argument, a key and the nonce inside the buffer, the checks of R246 pass. -/
theorem exec_gcminit_of_checks {tl : BitVec 8} {s : State} (htl : tl.toNat ≤ 16) (hkey : s.keyValid = true)
    (hA : (rangeA s).inside s.cfg) :
    exec (.gcminit tl) s = succeed (newSession tl (Memory.bytes s.buf s.aoff.toNat s.alen.toNat) s) := by
  rw [exec, execGcminit, if_neg (Nat.not_lt.mpr htl), if_neg (by simp [hkey]), if_neg (not_not.mpr hA),
    memRead_inside _ hA, rangeA_off, rangeA_len]

/-- Settles O29. -/
theorem gcminitSetsUpTheSession : Obligations.GcminitSetsUpTheSession :=
  fun _ _ htl hkey hA => ⟨_, exec_gcminit_of_checks htl hkey hA, rfl, configuredTagLen_toNat htl⟩

/-- Settles O38: an error raises its flags alone, a success makes the writes of `newSession`. -/
theorem frameOfGcminit : Obligations.FrameOfGcminit := by
  intro tl s t h
  rcases execGcminit_cases tl s with ⟨e, heq⟩ | ⟨-, -, -, heq⟩
  · obtain rfl := (raise_next ..).mp (heq.symm.trans h)
    exact ⟨fun _ => rfl, rfl, .inr ⟨rfl, rfl, rfl, rfl, rfl, rfl⟩⟩
  · obtain rfl := (succeed_next ..).mp (heq.symm.trans h)
    exact ⟨fun _ => rfl, rfl, .inl ⟨rfl, rfl, rfl⟩⟩

/-! ### The payload in place (R242, R247, R248) -/

/-- The buffer with the bytes at D replaced by their counter-mode output from `J0`, as GCMENC and GCMDEC do. -/
def bufAfterCtr (s : State) : Memory :=
  Memory.storeBytes s.buf s.doff.toNat (ctrBytes s s.j0 (Memory.bytes s.buf s.doff.toNat s.dlen.toNat))

theorem bytes_bufAfterCtr (s : State) :
    Memory.bytes (bufAfterCtr s) s.doff.toNat s.dlen.toNat =
      ctrBytes s s.j0 (Memory.bytes s.buf s.doff.toNat s.dlen.toNat) := by
  have h := bytes_storeBytes_same s.buf s.doff.toNat
    (ctrBytes s s.j0 (Memory.bytes s.buf s.doff.toNat s.dlen.toNat))
  rwa [ctrBytes_length, bytes_length] at h

theorem byteAt_bufAfterCtr {s : State} {o : Nat} (h : ¬ (rangeD s).covers o) :
    Memory.byteAt (bufAfterCtr s) o = Memory.byteAt s.buf o :=
  byteAt_storeBytes_uncovered (r := rangeD s) (by simp) h

/-! ### GCMENC (R247) -/

/-- With a session, and A, D and the tag range inside the buffer and apart, the checks of R247 pass. -/
theorem exec_gcmenc_of_checks {s : State} (hsess : s.sessValid = true) (hA : (rangeA s).inside s.cfg)
    (hD : (rangeD s).inside s.cfg) (hT : (rangeTag s).inside s.cfg) (hDA : ¬ (rangeD s).overlaps (rangeA s))
    (hTA : ¬ (rangeTag s).overlaps (rangeA s)) (hTD : ¬ (rangeTag s).overlaps (rangeD s)) :
    exec .gcmenc s = succeed { s with
      buf := Memory.storeBytes (bufAfterCtr s) (rangeTag s).off
        (sessionTag s (Memory.bytes s.buf s.aoff.toNat s.alen.toNat)
          (ctrBytes s s.j0 (Memory.bytes s.buf s.doff.toNat s.dlen.toNat))) } := by
  rw [exec, execGcmenc, if_neg (by simp [hsess]),
    if_neg (by simp only [hA, hD, hT, not_true, or_self, not_false_iff]),
    if_neg (by simp only [hDA, hTA, hTD, or_self, not_false_iff]),
    memRead_inside _ hA, memRead_inside _ hD, memWrite_inside _ (by simpa using hD)]
  exact memWrite_inside (s := { s with buf := bufAfterCtr s }) _
    ((Nat.add_le_add_left (sessionTag_length_le ..) _).trans hT)

/-- Settles O30: the ciphertext at D lies outside the tag range, so the write of the tag keeps it. -/
theorem gcmencEncryptsAndTags : Obligations.GcmencEncryptsAndTags := by
  intro s hsess htag hA hD hT hDA hTA hTD
  obtain ⟨t, ht, htagBytes, hframe, hrest⟩ := succeed_storeBytes { s with buf := bufAfterCtr s } (r := rangeTag s)
    (sessionTag_length (Memory.bytes s.buf s.aoff.toNat s.alen.toNat)
      (ctrBytes s s.j0 (Memory.bytes s.buf s.doff.toNat s.dlen.toNat)) htag)
  have hdata : Memory.bytes t.buf (rangeD s).off (rangeD s).len =
      Memory.bytes (bufAfterCtr s) (rangeD s).off (rangeD s).len :=
    bytes_congr fun o ho => hframe o fun hoT => not_covers_of_apart hTD hoT ho
  exact ⟨t, (exec_gcmenc_of_checks hsess hA hD hT hDA hTA hTD).trans ht, hdata.trans (bytes_bufAfterCtr s),
    htagBytes, fun o hoD hoT => (hframe o hoT).trans (byteAt_bufAfterCtr hoD), hrest⟩

/-! ### GCMDEC (R248) -/

/-- With a session, `TLEN = TAGLEN`, the ranges inside the buffer, D apart from A and T, and the right tag at T,
the checks of R248 pass. -/
theorem exec_gcmdec_of_checks {s : State} (hsess : s.sessValid = true) (hlen : s.tlen.toNat = s.tagLen.toNat)
    (hA : (rangeA s).inside s.cfg) (hD : (rangeD s).inside s.cfg) (hT : (rangeT s).inside s.cfg)
    (hDA : ¬ (rangeD s).overlaps (rangeA s)) (hDT : ¬ (rangeD s).overlaps (rangeT s))
    (htag : sessionTag s (Memory.bytes s.buf s.aoff.toNat s.alen.toNat)
      (Memory.bytes s.buf s.doff.toNat s.dlen.toNat) = Memory.bytes s.buf s.toff.toNat s.tlen.toNat) :
    exec .gcmdec s = succeed { s with buf := bufAfterCtr s } := by
  rw [exec, execGcmdec, if_neg (by simp [hsess]), if_neg (not_not.mpr hlen),
    if_neg (by simp only [hA, hD, hT, not_true, or_self, not_false_iff]),
    if_neg (by simp only [hDA, hDT, or_self, not_false_iff]),
    memRead_inside _ hA, memRead_inside _ hD, memRead_inside _ hT,
    if_neg (by simp [(tagEqual_iff (congrArg List.length htag)).mpr htag]),
    memWrite_inside _ (by simpa using hD)]
  rfl

/-- Settles O31. -/
theorem gcmdecVerifiesThenDecrypts : Obligations.GcmdecVerifiesThenDecrypts :=
  fun s hsess hlen hA hD hT hDA hDT htag =>
    ⟨_, exec_gcmdec_of_checks hsess hlen hA hD hT hDA hDT htag, bytes_bufAfterCtr s,
      fun _ => byteAt_bufAfterCtr, rfl⟩

/-! ### The round trip (R249) -/

/-- No error applies exactly when every check of the priority table passes (`60_exceptions.md` R286). -/
theorem firstError_eq_none_iff (i : Instr) (s : State) :
    firstError i s = none ↔
      i.wellFormed = true ∧ missingState i s = none ∧ wrongLength i s = none ∧
      (∀ r ∈ usedRanges i s, r.inside s.cfg) ∧ (∀ p ∈ apartRanges i s, ¬ p.1.overlaps p.2) ∧
      tagDiffers i s = false := by
  simp [firstError, priorityRows]

/-- The checks of GCMENC, read off the priority table. -/
theorem gcmenc_checks_of_firstError {s : State} (h : firstError .gcmenc s = none) :
    s.sessValid = true ∧ (rangeA s).inside s.cfg ∧ (rangeD s).inside s.cfg ∧ (rangeTag s).inside s.cfg ∧
      ¬ (rangeD s).overlaps (rangeA s) ∧ ¬ (rangeTag s).overlaps (rangeA s) ∧
      ¬ (rangeTag s).overlaps (rangeD s) := by
  obtain ⟨-, hsess, -, hinside, hapart, -⟩ := (firstError_eq_none_iff ..).mp h
  refine ⟨?_, hinside _ (by simp [usedRanges]), hinside _ (by simp [usedRanges]), hinside _ (by simp [usedRanges]),
    hapart (rangeD s, rangeA s) (by simp [apartRanges]), hapart (rangeTag s, rangeA s) (by simp [apartRanges]),
    hapart (rangeTag s, rangeD s) (by simp [apartRanges])⟩
  simpa [missingState] using hsess

/-- Memories that read the same on a range agree on each of its bytes. -/
theorem byteAt_eq_of_bytes_eq {m m' : Memory} {r : Range} {o : Nat}
    (h : Memory.bytes m r.off r.len = Memory.bytes m' r.off r.len) (ho : r.covers o) :
    Memory.byteAt m o = Memory.byteAt m' o := by
  have hj : o - r.off < r.len := by omega
  have hbyte := congrArg (·[o - r.off]?) h
  simpa [Memory.bytes, hj, Nat.add_sub_cancel' ho.1] using hbyte

/-- Settles O55: GCMENC leaves A as it was, so GCMDEC recomputes the tag that it finds at T, and counter mode from
`J0` undoes itself. -/
theorem gcmRoundTrip : Obligations.GcmRoundTrip := by
  intro s t tlen htag hchecks hexec hlen
  obtain ⟨hsess, hA, hD, hT, hDA, hTA, hTD⟩ := gcmenc_checks_of_firstError hchecks
  obtain ⟨t', ht, hdata, htagBytes, hframe, hrest⟩ := gcmencEncryptsAndTags s hsess htag hA hD hT hDA hTA hTD
  obtain rfl : t' = t := by simpa using ht.symm.trans hexec
  have haad : Memory.bytes t'.buf (rangeA s).off (rangeA s).len = Memory.bytes s.buf (rangeA s).off (rangeA s).len :=
    bytes_congr fun o ho => hframe o (fun hoD => not_covers_of_apart hDA hoD ho)
      fun hoT => not_covers_of_apart hTA hoT ho
  rw [rangeA_off, rangeA_len] at haad
  have hsupplied : gcmTag s.tsel s.rk s.h s.j0 (Memory.bytes t'.buf s.aoff.toNat s.alen.toNat)
      (Memory.bytes t'.buf s.doff.toNat s.dlen.toNat) s.tagLen.toNat =
        Memory.bytes t'.buf s.toff.toNat tlen.toNat := by
    rw [haad, hdata, hlen, htagBytes]
  have hrangeT : Range.mk s.toff.toNat tlen.toNat = rangeTag s := by rw [rangeTag, hlen]
  rw [← hrangeT] at hT hTD
  rw [hrest]
  obtain ⟨u, hu, hplain, hkept, huRest⟩ := gcmdecVerifiesThenDecrypts
    { s with buf := t'.buf, tlen := tlen, busy := true, done := false } hsess hlen hA hD hT hDA
    (mt (overlaps_comm ..).mp hTD) hsupplied
  have hback : Memory.bytes u.buf (rangeD s).off (rangeD s).len = Memory.bytes s.buf (rangeD s).off (rangeD s).len :=
    hplain.trans (by rw [hdata, ctrMode_ctrMode]; rfl)
  refine ⟨u, hu, by rw [huRest], by rw [huRest], hback, fun o ho => ?_⟩
  by_cases hoD : (rangeD s).covers o
  · exact byteAt_eq_of_bytes_eq hback hoD
  · exact (hkept o hoD).trans (hframe o hoD ho)

end Sys2Proof.Machine
end

section
/-! SUPPORT. The errors of a command (`60_exceptions.md`): every command makes its checks in the order of the priority
table (R286), so the first row that fails decides how it ends; which errors that can be (R287), what an error leaves
alone (R284), and when GCMDEC refuses a tag (R283). -/

namespace Sys2Proof.Machine

/-! ### The checks of a command are the rows of the table (R286) -/

/-- The rows of the priority table before the last: the checks that a command makes before it reads the buffer. -/
def earlyRows (i : Instr) (s : State) : List (Option ErrorKind) := (priorityRows i s).take 5

theorem priorityRows_eq (i : Instr) (s : State) :
    priorityRows i s = earlyRows i s ++ [if tagDiffers i s then some .authenticationFailure else none] := rfl

/-- The tag decides when no early row fails. -/
theorem firstError_eq (i : Instr) (s : State) :
    firstError i s =
      ((earlyRows i s).findSome? id).or (if tagDiffers i s then some .authenticationFailure else none) := by
  rw [firstError, priorityRows_eq, List.findSome?_append, List.findSome?_singleton, id]

/-- `t` is a success from `s`: `DONE` is set, and the error record is as it was. -/
def doneFrom (s t : State) : Prop := t.done = true ∧ t.err = s.err ∧ t.errCode = s.errCode

/-- An answer that a command may give once its early checks have passed: a success, or GCMDEC's refusal of the tag. -/
def AfterChecks (i : Instr) (s : State) (r : Result) : Prop :=
  ∀ t, r = .next t → doneFrom s t ∨ i = .gcmdec ∧ t = flagsError .authenticationFailure s

/-- `r` answers as the checks `rows` say: the error of the first row that gives one, or else what comes after them. -/
def Answers (i : Instr) (s : State) (rows : List (Option ErrorKind)) (r : Result) : Prop :=
  (rows.findSome? id).elim (AfterChecks i s r) (r = raise · s)

section

variable {i : Instr} {s : State} {rows : List (Option ErrorKind)} {r : Result}

theorem AfterChecks.succeed {u : State} (herr : u.err = s.err) (hcode : u.errCode = s.errCode) :
    AfterChecks i s (succeed u) := by
  intro t ht
  obtain rfl := (succeed_next ..).mp ht
  exact .inl ⟨rfl, herr, hcode⟩

theorem AfterChecks.memRead {a : Range} {k : List Byte → Result} (h : ∀ bs, AfterChecks i s (k bs)) :
    AfterChecks i s (memRead a s k) := fun t ht => h _ t (memRead_next ht).2

theorem AfterChecks.memWrite {off : Nat} {bs : List Byte} {u : State} {k : State → Result}
    (h : AfterChecks i s (k { u with buf := Memory.storeBytes u.buf off bs })) :
    AfterChecks i s (memWrite off bs u k) := fun t ht => h t (memWrite_next ht).2

/-- GCMDEC may refuse the tag (R283). -/
theorem AfterChecks.refuse {c : Prop} [Decidable c] (h : AfterChecks .gcmdec s r) :
    AfterChecks .gcmdec s (if c then raise .authenticationFailure s else r) := by
  split
  · exact fun t ht => .inr ⟨rfl, (raise_next ..).mp ht⟩
  · exact h

theorem Answers.body (h : AfterChecks i s r) : Answers i s [] r := h

/-- A row that does not belong to the command is skipped. -/
theorem Answers.skip (h : Answers i s rows r) : Answers i s (none :: rows) r := h

/-- A check of the command is the row that fails when it does. -/
theorem Answers.check {c d : Prop} [Decidable c] [Decidable d] {e : ErrorKind} (hcd : c ↔ ¬ d)
    (h : Answers i s rows r) :
    Answers i s ((if d then none else some e) :: rows) (if c then raise e s else r) := by
  by_cases hd : d
  · rw [if_pos hd, if_neg (mt hcd.mp (not_not.mpr hd))]
    exact h
  · rw [if_neg hd, if_pos (hcd.mpr hd)]
    rfl

end

theorem ne_sixteen_iff (w : Word) : w.toNat ≠ 16 ↔ ¬ w = 16#32 := not_congr (BitVec.toNat_inj (y := 16#32))

section

variable {α : Type} {p : α → Prop} {a : α}

theorem not_forall_singleton : (¬ ∀ x ∈ [a], p x) ↔ ¬ p a := by rw [List.forall_mem_singleton]

theorem not_forall_cons {b : α} {l : List α} : (¬ ∀ x ∈ a :: b :: l, p x) ↔ ¬ p a ∨ ¬ ∀ x ∈ b :: l, p x := by
  rw [List.forall_mem_cons, not_and_or]

end

/-- Every command makes the checks of the early rows in their order: each term below reads the rows off from the first,
skipping those that do not belong to the command, and then the reads and writes of its work. -/
theorem exec_answers (i : Instr) (s : State) : Answers i s (earlyRows i s) (exec i s) := by
  cases i with
  | keyexp tt =>
    exact .skip <| .skip <| .check (ne_sixteen_iff _) <|
      .check (by simp only [usedRanges, not_forall_singleton]) <| .skip <|
      .body <| .memRead fun _ => .succeed rfl rfl
  | ecbenc | ecbdec =>
    exact .skip <| .check Bool.eq_false_iff <| .check (ne_sixteen_iff _) <|
      .check (by simp only [usedRanges, not_forall_singleton]) <| .skip <|
      .body <| .memRead fun _ => .memWrite <| .succeed rfl rfl
  | gfmul =>
    exact .skip <| .skip <| .check (by rw [not_and_or, ne_sixteen_iff, ne_sixteen_iff]) <|
      .check (by simp only [usedRanges, not_forall_cons, not_forall_singleton]) <|
      .check (by simp only [apartRanges, not_forall_cons, not_forall_singleton, not_not]) <|
      .body <| .memRead fun _ => .memRead fun _ => .memWrite <| .succeed rfl rfl
  | ghash =>
    exact .skip <| .check Bool.eq_false_iff <| .skip <|
      .check (by simp only [usedRanges, not_forall_cons, not_forall_singleton]) <|
      .check (by simp only [apartRanges, not_forall_cons, not_forall_singleton, not_not]) <|
      .body <| .memRead fun _ => .memRead fun _ => .memWrite <| .succeed rfl rfl
  | ctr =>
    exact .skip <| .check Bool.eq_false_iff <| .check (ne_sixteen_iff _) <|
      .check (by simp only [usedRanges, not_forall_cons, not_forall_singleton]) <|
      .check (by simp only [apartRanges, not_forall_singleton, not_not]) <|
      .body <| .memRead fun _ => .memRead fun _ => .memWrite <| .succeed rfl rfl
  | gcminit tl =>
    exact .check (by simp [Instr.wellFormed]) <| .check Bool.eq_false_iff <| .skip <|
      .check (by simp only [usedRanges, not_forall_singleton]) <| .skip <|
      .body <| .memRead fun _ => .succeed rfl rfl
  | gcmenc =>
    exact .skip <| .check Bool.eq_false_iff <| .skip <|
      .check (by simp only [usedRanges, not_forall_cons, not_forall_singleton]) <|
      .check (by simp only [apartRanges, not_forall_cons, not_forall_singleton, not_not]) <|
      .body <| .memRead fun _ => .memRead fun _ => .memWrite <| .memWrite <| .succeed rfl rfl
  | gcmdec =>
    exact .skip <| .check Bool.eq_false_iff <| .check Iff.rfl <|
      .check (by simp only [usedRanges, not_forall_cons, not_forall_singleton]) <|
      .check (by simp only [apartRanges, not_forall_cons, not_forall_singleton, not_not]) <|
      .body <| .memRead fun _ => .memRead fun _ => .memRead fun _ => .refuse <| .memWrite <| .succeed rfl rfl

/-- The first early row that fails decides. -/
theorem exec_of_early_error {i : Instr} {s : State} {e : ErrorKind} (h : (earlyRows i s).findSome? id = some e) :
    exec i s = raise e s := by
  have hanswers := exec_answers i s
  rwa [Answers, h] at hanswers

theorem exec_of_early_none {i : Instr} {s : State} (h : (earlyRows i s).findSome? id = none) :
    AfterChecks i s (exec i s) := by
  have hanswers := exec_answers i s
  rwa [Answers, h] at hanswers

/-! ### GCMDEC's last check (R283) -/

/-- The early checks of GCMDEC. -/
theorem early_gcmdec_eq_none_iff (s : State) :
    (earlyRows .gcmdec s).findSome? id = none ↔
      s.sessValid = true ∧ s.tlen.toNat = s.tagLen.toNat ∧
      ((rangeA s).inside s.cfg ∧ (rangeD s).inside s.cfg ∧ (rangeT s).inside s.cfg) ∧
      ¬ (rangeD s).overlaps (rangeA s) ∧ ¬ (rangeD s).overlaps (rangeT s) := by
  simp [earlyRows, priorityRows, Instr.wellFormed, missingState, wrongLength, usedRanges, apartRanges]

/-- With the early checks passed, GCMDEC refuses a tag that differs. -/
theorem exec_gcmdec_of_tagDiffers {s : State} (htag : s.tagLen.toNat ≤ 16)
    (hearly : (earlyRows .gcmdec s).findSome? id = none) (hdiffers : tagDiffers .gcmdec s = true) :
    exec .gcmdec s = raise .authenticationFailure s := by
  obtain ⟨hsess, hlen, ⟨hA, hD, hT⟩, hDA, hDT⟩ := (early_gcmdec_eq_none_iff s).mp hearly
  have hequal : tagEqual (sessionTag s (Memory.bytes s.buf s.aoff.toNat s.alen.toNat)
      (Memory.bytes s.buf s.doff.toNat s.dlen.toNat)) (Memory.bytes s.buf s.toff.toNat s.tlen.toNat) = false := by
    rw [← Bool.not_eq_true, tagEqual_iff (by rw [sessionTag_length _ _ htag, bytes_length, hlen])]
    exact of_decide_eq_true hdiffers
  rw [exec, execGcmdec, if_neg (by simp [hsess]), if_neg (not_not.mpr hlen),
    if_neg (by simp only [hA, hD, hT, not_true, or_self, not_false_iff]),
    if_neg (by simp only [hDA, hDT, or_self, not_false_iff]),
    memRead_inside _ hA, memRead_inside _ hD, memRead_inside _ hT]
  exact if_pos hequal

/-- With all checks passed, GCMDEC succeeds. -/
theorem exec_gcmdec_of_not_tagDiffers {s : State} (hearly : (earlyRows .gcmdec s).findSome? id = none)
    (hsame : tagDiffers .gcmdec s = false) : exec .gcmdec s = succeed { s with buf := bufAfterCtr s } := by
  obtain ⟨hsess, hlen, ⟨hA, hD, hT⟩, hDA, hDT⟩ := (early_gcmdec_eq_none_iff s).mp hearly
  exact exec_gcmdec_of_checks hsess hlen hA hD hT hDA hDT (not_not.mp (of_decide_eq_false hsame))

/-- Only GCMDEC compares a tag. -/
theorem eq_gcmdec_of_tagDiffers {i : Instr} {s : State} (h : tagDiffers i s = true) : i = .gcmdec := by
  cases i with
  | gcmdec => rfl
  | _ => cases h

/-! ### The first failing row decides (R286) -/

/-- With the early rows passed, the error of the table is the tag's. -/
theorem firstError_of_early_none {i : Instr} {s : State} (h : (earlyRows i s).findSome? id = none) :
    firstError i s = if tagDiffers i s then some .authenticationFailure else none := by
  rw [firstError_eq, h, Option.none_or]

theorem firstError_eq_none_iff_early (i : Instr) (s : State) :
    firstError i s = none ↔ (earlyRows i s).findSome? id = none ∧ tagDiffers i s = false := by
  simp [firstError_eq]

/-- The first error that applies is the one that the command ends with. -/
theorem exec_of_firstError_some {i : Instr} {s : State} {e : ErrorKind} (htag : s.tagLen.toNat ≤ 16)
    (h : firstError i s = some e) : exec i s = raise e s := by
  cases hearly : (earlyRows i s).findSome? id with
  | some e' =>
    rw [firstError_eq, hearly, Option.some_or] at h
    exact exec_of_early_error (hearly.trans h)
  | none =>
    rw [firstError_of_early_none hearly] at h
    split at h
    · next hdiffers =>
      obtain rfl := eq_gcmdec_of_tagDiffers hdiffers
      cases h
      exact exec_gcmdec_of_tagDiffers htag hearly hdiffers
    · cases h

/-- When no error applies the command succeeds. -/
theorem exec_of_firstError_none {i : Instr} {s : State} (h : firstError i s = none) :
    ∃ t, exec i s = .next t ∧ t.busy = false ∧ doneFrom s t := by
  obtain ⟨hearly, hsame⟩ := (firstError_eq_none_iff_early ..).mp h
  obtain ⟨t, ht, hidle, -⟩ := exec_completes i s
  refine ⟨t, ht, hidle, ?_⟩
  rcases exec_of_early_none hearly t ht with hdone | ⟨rfl, -⟩
  · exact hdone
  · obtain rfl := (succeed_next ..).mp ((exec_gcmdec_of_not_tagDiffers hearly hsame).symm.trans ht)
    exact ⟨rfl, rfl, rfl⟩

/-- With an illegal word in progress the Core raises `IllegalCommand` (`30_encoding.md` R93). -/
theorem coreStep_of_not_legalWord {s : State} (hbusy : s.busy = true) (h : ¬ legalWord s.cmdLatch) :
    coreStep s = raise .illegalCommand s := by
  rw [legalWord_iff_decodes] at h
  cases hlatched : latched s with
  | ok i => exact absurd ⟨i, hlatched⟩ h
  | error r => exact coreStep_of_latched_error hbusy hlatched

/-- Settles O32: the command makes its checks in the order of the table, so the first failing row decides. -/
theorem firstApplicableErrorIsReported : Obligations.FirstApplicableErrorIsReported :=
  ⟨fun _ => coreStep_of_not_legalWord,
    fun _ _ htag => ⟨fun _ => exec_of_firstError_some htag, exec_of_firstError_none⟩⟩

/-- Settles O35: the hypotheses are the early checks of GCMDEC, and the tag comparison is the one left. -/
theorem wrongTagsReleaseNothing : Obligations.WrongTagsReleaseNothing := by
  intro s hsess htag hlen hA hD hT hDA hDT
  have hearly := (early_gcmdec_eq_none_iff s).mpr ⟨hsess, hlen, ⟨hA, hD, hT⟩, hDA, hDT⟩
  constructor
  · intro hne
    exact exec_gcmdec_of_tagDiffers htag hearly (decide_eq_true hne)
  · intro heq
    exact ⟨_, exec_gcmdec_of_not_tagDiffers hearly (decide_eq_false (not_not.mpr heq)), rfl, rfl, rfl⟩

/-- Settles O34: a completion that sets `ERR` is no success, so it is the raising of one error. -/
theorem failedCommandsChangeOnlyTheErrorRecord : Obligations.FailedCommandsChangeOnlyTheErrorRecord := by
  intro s t hbusy hclear hstep herr
  obtain ⟨t', ht', -, ⟨-, herr', -⟩ | he⟩ := coreStep_completes hbusy
  · obtain rfl : t' = t := by simpa using ht'.symm.trans hstep
    exact absurd (herr'.symm.trans herr) (by simp [hclear])
  · obtain rfl : t' = t := by simpa using ht'.symm.trans hstep
    exact he

/-! ### The matrix of errors (R287) -/

/-- The errors that the state, the lengths and the ranges can give a command are in its row of the matrix. -/
theorem missingState_mem_possibleErrors {i : Instr} {s : State} {e : ErrorKind} (h : missingState i s = some e) :
    e ∈ possibleErrors i := by
  cases i <;> simp_all [missingState, possibleErrors]

theorem wrongLength_mem_possibleErrors {i : Instr} {s : State} {e : ErrorKind} (h : wrongLength i s = some e) :
    e ∈ possibleErrors i := by
  cases i <;> simp_all [wrongLength, possibleErrors]

theorem badOperand_mem_possibleErrors (i : Instr) : .badOperand ∈ possibleErrors i := by
  cases i <;> simp [possibleErrors]

/-- The error of an early row of a well-formed command is in its row of the matrix. -/
theorem early_error_mem_possibleErrors {i : Instr} {s : State} {e : ErrorKind} (hwf : i.wellFormed = true)
    (h : (earlyRows i s).findSome? id = some e) : e ∈ possibleErrors i := by
  have hbad {c : Prop} [Decidable c] (h : some e = if c then none else some .badOperand) : e ∈ possibleErrors i := by
    split at h
    · cases h
    · cases h
      exact badOperand_mem_possibleErrors i
  obtain ⟨row, hrow, rfl⟩ := List.exists_of_findSome?_eq_some h
  simp only [earlyRows, priorityRows, hwf, if_true, List.take, List.mem_cons, List.not_mem_nil, or_false] at hrow
  rcases hrow with hlegal | hstate | hlength | hinside | hapart
  · cases hlegal
  · exact missingState_mem_possibleErrors hstate.symm
  · exact wrongLength_mem_possibleErrors hlength.symm
  · exact hbad hinside
  · exact hbad hapart

/-- A command that ends with an error ends with one of its row. -/
theorem exec_error_mem_possibleErrors {i : Instr} {s t : State} (hwf : i.wellFormed = true) (hclear : s.err = false)
    (hexec : exec i s = .next t) (herr : t.err = true) : ∃ e ∈ possibleErrors i, t.errCode = errorCode e := by
  cases hearly : (earlyRows i s).findSome? id with
  | some e =>
    obtain rfl := (raise_next ..).mp ((exec_of_early_error hearly).symm.trans hexec)
    exact ⟨e, early_error_mem_possibleErrors hwf hearly, rfl⟩
  | none =>
    rcases exec_of_early_none hearly t hexec with ⟨-, hkept, -⟩ | ⟨rfl, rfl⟩
    · exact absurd (hkept.symm.trans herr) (by simp [hclear])
    · exact ⟨.authenticationFailure, by simp [possibleErrors], rfl⟩

/-- With a key and a session, and every operand empty. -/
def opened : State := { State.powerOn ⟨64⟩ with keyValid := true, sessValid := true }

/-- A state in which every command that can end with the error does. -/
def errorWitness : ErrorKind → State
  | .noKey | .noSession | .illegalCommand => State.powerOn ⟨64⟩
  | .invalidKeyLength | .invalidBlockLength | .invalidTagLength => opened
  | .badOperand =>
    { opened with
      aoff := 64#32, alen := 16#32, doff := 64#32, dlen := 16#32, toff := 64#32, tlen := 16#32 }
  | .authenticationFailure => { opened with tagLen := 1#5, tlen := 1#32, buf := [(0, 0x00#8)] }

/-- In that state the error is the first that applies. -/
theorem firstError_errorWitness {i : Instr} {e : ErrorKind} (hwf : i.wellFormed = true) (he : e ∈ possibleErrors i) :
    firstError i (errorWitness e) = some e := by
  cases i with
  | keyexp tt =>
    change e ∈ possibleErrors (.keyexp false) at he
    change firstError (.keyexp false) _ = _
    revert e
    decide +kernel
  | gcminit tl =>
    have hdefault (s : State) : firstError (.gcminit tl) s = firstError (.gcminit 0#8) s := by
      rw [firstError, priorityRows, hwf]
      rfl
    rw [hdefault]
    change e ∈ possibleErrors (.gcminit 0#8) at he
    revert e
    decide +kernel
  | _ =>
    revert e
    decide +kernel

/-- Settles O33: the errors come from the rows, and `errorWitness` has a state for each. -/
theorem errorsAreThoseOfTheMatrix : Obligations.ErrorsAreThoseOfTheMatrix := by
  refine ⟨fun _ _ _ => exec_error_mem_possibleErrors, fun i e hwf he => ⟨errorWitness e, ?_, ?_⟩,
    fun _ => coreStep_of_not_legalWord⟩
  · cases e <;> rfl
  · exact exec_of_firstError_some (by cases e <;> decide) (firstError_errorWitness hwf he)

end Sys2Proof.Machine
end

section
/-! SUPPORT. One changed byte and the tag (`60_exceptions.md` R283, `46_gcm.md` R243): where the subkey annihilates no
block the hash is injective in each byte of the data, so GCMDEC refuses data of which a byte was changed. -/

namespace Sys2Proof.Machine

/-! ### One changed byte of a list -/

theorem set_ne_self {α : Type} {l : List α} {j : Nat} {b : α} (hj : j < l.length) (hb : b ≠ l[j]) : l.set j b ≠ l := by
  intro h
  have hset : (l.set j b)[j]? = some b := List.getElem?_set_self hj
  rw [h, List.getElem?_eq_getElem hj] at hset
  exact hb (Option.some.inj hset).symm

theorem length_le_pad16_length (s : List Byte) : s.length ≤ (pad16 s).length := by simp [pad16]

theorem getElem_pad16 {s : List Byte} {j : Nat} (hj : j < s.length) :
    (pad16 s)[j]'(hj.trans_le (length_le_pad16_length s)) = s[j] := List.getElem_append_left ..

theorem pad16_set {s : List Byte} {j : Nat} (hj : j < s.length) (b : Byte) :
    pad16 (s.set j b) = (pad16 s).set j b := by
  rw [pad16, pad16, List.set_append_left _ _ hj, List.length_set]

/-! ### One changed byte of the hashed data (`44_ghash.md` R196 to R198) -/

/-- The hashed bytes are whole blocks. -/
theorem hashBytes_length_blocks (aad ct : List Byte) :
    (hashBytes aad ct).length = 16 * ((hashBytes aad ct).length / 16) := by
  simp only [hashBytes, List.length_append, pad16_length, lenBlock_length]
  omega

section

variable {h : Block} (hh : annihilatesNothing h)
include hh

/-- A subkey that annihilates no block but zero takes different blocks to different products. -/
theorem gfmul_right_injective : Function.Injective (gfmul · h) := by
  intro x y hxy
  apply BitVec.xor_eq_zero_iff.mp
  apply hh
  rw [xor_gfmul]
  exact BitVec.xor_eq_zero_iff.mpr hxy

/-- The fold over fixed bytes is injective in its start. -/
theorem hashFold_injective (m : Nat) (s : List Byte) : Function.Injective (hashFold h m s) := by
  induction m generalizing s with
  | zero => exact fun _ _ => id
  | succ m ih =>
    intro y z hyz
    rw [hashFold_succ, hashFold_succ] at hyz
    exact (BitVec.xor_left_inj _).mp (gfmul_right_injective hh (ih _ hyz))

/-- The fold over whole blocks is injective in each byte: the changed byte gives another block, and from there the fold
goes on over the same bytes. -/
theorem hashFold_set_ne {m : Nat} {s : List Byte} (hlen : s.length = 16 * m) {j : Nat} {b : Byte}
    (hj : j < s.length) (hb : b ≠ s[j]) (y : Block) : hashFold h m (s.set j b) y ≠ hashFold h m s y := by
  induction m generalizing s j y with
  | zero => omega
  | succ m ih =>
    rw [hashFold_succ, hashFold_succ, List.take_set, List.drop_set]
    by_cases hfirst : j < 16
    · rw [if_pos hfirst]
      intro heq
      have hblock : be128 ((s.take 16).set j b) = be128 (s.take 16) :=
        (BitVec.xor_right_inj _).mp (gfmul_right_injective hh (hashFold_injective hh m _ heq))
      have hbytes : (s.take 16).set j b = s.take 16 := by
        rw [← bytes128_be128 (bs := (s.take 16).set j b) (by simp; omega), hblock, bytes128_be128 (by simp; omega)]
      exact set_ne_self (by simp; omega) (by simpa using hb) hbytes
    · rw [if_neg hfirst, List.set_eq_of_length_le (l := s.take 16) (by simp; omega)]
      have hrest : j - 16 < (s.drop 16).length := by rw [List.length_drop]; omega
      refine ih (by rw [List.length_drop]; omega) hrest ?_ _
      simpa [Nat.add_sub_cancel' (Nat.le_of_not_lt hfirst)] using hb

/-- The hash is injective in each byte of the authentication data. -/
theorem ghash_set_aad_ne {aad : List Byte} (ct : List Byte) {j : Nat} {b : Byte} (hj : j < aad.length)
    (hb : b ≠ aad[j]) : ghash h (aad.set j b) ct ≠ ghash h aad ct := by
  have hpad : j < (pad16 aad).length := hj.trans_le (length_le_pad16_length aad)
  have hset : hashBytes (aad.set j b) ct = (hashBytes aad ct).set j b := by
    rw [hashBytes, hashBytes, pad16_set hj, lenBlock_congr List.length_set rfl, List.append_assoc, List.append_assoc,
      List.set_append_left _ _ hpad]
  rw [ghash_eq_hashFold, ghash_eq_hashFold, hset, List.length_set]
  refine hashFold_set_ne hh (hashBytes_length_blocks aad ct) (by simp [hashBytes]; omega) ?_ _
  simpa [hashBytes, List.getElem_append, hpad, getElem_pad16 hj] using hb

/-- The hash is injective in each byte of the ciphertext. -/
theorem ghash_set_ct_ne (aad : List Byte) {ct : List Byte} {j : Nat} {b : Byte} (hj : j < ct.length)
    (hb : b ≠ ct[j]) : ghash h aad (ct.set j b) ≠ ghash h aad ct := by
  have hpad : j < (pad16 ct).length := hj.trans_le (length_le_pad16_length ct)
  have hset : hashBytes aad (ct.set j b) = (hashBytes aad ct).set ((pad16 aad).length + j) b := by
    rw [hashBytes, hashBytes, pad16_set hj, lenBlock_congr rfl List.length_set, List.append_assoc, List.append_assoc,
      List.set_append_right _ _ (Nat.le_add_right ..), Nat.add_sub_cancel_left, List.set_append_left _ _ hpad]
  rw [ghash_eq_hashFold, ghash_eq_hashFold, hset, List.length_set]
  refine hashFold_set_ne hh (hashBytes_length_blocks aad ct) (by simp [hashBytes]; omega) ?_ _
  simpa [hashBytes, List.getElem_append, hpad, getElem_pad16 hj] using hb

end

/-- A tag of 16 bytes determines the hash under it (`46_gcm.md` R243, R244). -/
theorem ghash_eq_of_sessionTag_eq {s : State} (hlen : s.tagLen = 16#5) {aad aad' ct ct' : List Byte}
    (heq : sessionTag s aad ct = sessionTag s aad' ct') : ghash s.h aad ct = ghash s.h aad' ct' := by
  have hfull : s.tagLen.toNat = 16 := by rw [hlen]; rfl
  rw [sessionTag, sessionTag, hfull, gcmTag_full, gcmTag_full] at heq
  exact (BitVec.xor_left_inj _).mp (Function.LeftInverse.injective be128_bytes128 heq)

/-! ### One changed byte of the buffer -/

section

variable {m : Memory} {r : Range} {o : Nat} {b : Byte}

/-- A range that covers the stored byte reads with that byte set. -/
theorem bytes_store_covered (h : r.covers o) :
    Memory.bytes (Memory.store m o b) r.off r.len = (Memory.bytes m r.off r.len).set (o - r.off) b := by
  apply List.ext_getElem (by simp)
  intro j _ _
  rw [getElem_bytes, byteAt_store, List.getElem_set, getElem_bytes]
  exact if_congr (by omega) rfl rfl

/-- Any other range reads as before. -/
theorem bytes_store_uncovered (h : ¬ r.covers o) :
    Memory.bytes (Memory.store m o b) r.off r.len = Memory.bytes m r.off r.len := by
  refine bytes_congr fun a ha => ?_
  rw [byteAt_store, if_neg]
  rintro rfl
  exact h ha

theorem sub_lt_bytes_length (h : r.covers o) : o - r.off < (Memory.bytes m r.off r.len).length := by
  rw [bytes_length]
  omega

theorem ne_getElem_bytes (h : r.covers o) (hb : b ≠ Memory.byteAt m o) :
    b ≠ (Memory.bytes m r.off r.len)[o - r.off]'(sub_lt_bytes_length h) := by
  rwa [getElem_bytes, Nat.add_sub_cancel' h.1]

end

/-- XOR with a byte other than 0 changes a byte. -/
theorem xor_ne_self {x d : Byte} (hd : d ≠ 0#8) : x ^^^ d ≠ x := by
  intro h
  exact hd ((BitVec.xor_right_inj x).mp (h.trans (BitVec.xor_zero (x := x)).symm))

/-- A tag notices a changed byte of its own that is no data, and, when it is of 16 bytes and the subkey annihilates no
block, a changed byte of the data that is none of its own. -/
theorem tagDiffers_of_changed {s : State} {o : Nat} {b : Byte} (hb : b ≠ Memory.byteAt s.buf o)
    (hDA : ¬ (rangeD s).overlaps (rangeA s)) (hDT : ¬ (rangeD s).overlaps (rangeT s))
    (hsame : tagDiffers .gcmdec s = false)
    (ho : ((rangeT s).covers o ∧ ¬ (rangeA s).covers o) ∨
      (((rangeD s).covers o ∨ ((rangeA s).covers o ∧ ¬ (rangeT s).covers o)) ∧ s.tagLen = 16#5 ∧
        annihilatesNothing s.h)) :
    tagDiffers .gcmdec { s with buf := Memory.store s.buf o b } = true := by
  have htag : sessionTag s (Memory.bytes s.buf (rangeA s).off (rangeA s).len)
      (Memory.bytes s.buf (rangeD s).off (rangeD s).len) = Memory.bytes s.buf (rangeT s).off (rangeT s).len :=
    not_not.mp (of_decide_eq_false hsame)
  suffices hne : sessionTag s (Memory.bytes (Memory.store s.buf o b) (rangeA s).off (rangeA s).len)
      (Memory.bytes (Memory.store s.buf o b) (rangeD s).off (rangeD s).len) ≠
        Memory.bytes (Memory.store s.buf o b) (rangeT s).off (rangeT s).len from decide_eq_true hne
  rcases ho with ⟨hoT, hoA⟩ | ⟨hoD | ⟨hoA, hoT⟩, hfull, hh⟩
  · have hoD : ¬ (rangeD s).covers o := fun hoD => not_covers_of_apart hDT hoD hoT
    rw [bytes_store_uncovered hoA, bytes_store_uncovered hoD, bytes_store_covered hoT, htag]
    exact (set_ne_self (sub_lt_bytes_length hoT) (ne_getElem_bytes hoT hb)).symm
  · rw [bytes_store_uncovered (not_covers_of_apart hDA hoD), bytes_store_uncovered (not_covers_of_apart hDT hoD),
      bytes_store_covered hoD, ← htag]
    exact mt (ghash_eq_of_sessionTag_eq hfull)
      (ghash_set_ct_ne hh _ (sub_lt_bytes_length hoD) (ne_getElem_bytes hoD hb))
  · have hoD : ¬ (rangeD s).covers o := fun hoD => not_covers_of_apart hDA hoD hoA
    rw [bytes_store_uncovered hoT, bytes_store_uncovered hoD, bytes_store_covered hoA, ← htag]
    exact mt (ghash_eq_of_sessionTag_eq hfull)
      (ghash_set_aad_ne hh _ (sub_lt_bytes_length hoA) (ne_getElem_bytes hoA hb))

/-- Settles O56: the changed byte is in the buffer only, so the early checks still pass, and the tag differs. -/
theorem changedBytesAreRefused : Obligations.ChangedBytesAreRefused := by
  rintro s o d hlen hnone hd ho s' rfl
  obtain ⟨hearly, hsame⟩ := (firstError_eq_none_iff_early ..).mp hnone
  have hchecks := (early_gcmdec_eq_none_iff s).mp hearly
  have ⟨_, _, _, hDA, hDT⟩ := hchecks
  exact exec_gcmdec_of_tagDiffers hlen ((early_gcmdec_eq_none_iff _).mpr hchecks)
    (tagDiffers_of_changed (xor_ne_self hd) hDA hDT hsame ho)

end Sys2Proof.Machine
end

section
/-! SUPPORT. Reset (`70_reset_and_hazards.md` R320 to R322): the step it takes and the `STATUS` after it, and that no
other move returns `KEYVALID` to 0. -/

namespace Sys2Proof.Machine

/-! ### The reset event (R320, R321) -/

/-- A reset at the head of the pending moves is made in one step, whatever `BUSY` is. -/
theorem step_of_pending_reset {s : State} {rest : List PortEvent} (h : s.pending = .reset :: rest) :
    step s = .next (resetEvent { s with pending := rest }) := by
  simp [step, h]

/-- `STATUS` after reset is that after power-on: it shows none of what reset keeps. -/
theorem statusWord_resetEvent (s : State) : statusWord (resetEvent s) = 0x00100000#32 :=
  statusWord_powerOn s.cfg

/-- Settles O19. -/
theorem resetEventClearsAllButTheBuffer : Obligations.ResetEventClearsAllButTheBuffer := by
  intro s rest hreset
  refine ⟨_, step_of_pending_reset hreset, rfl, rfl, rfl, fun k => ?_, rfl, rfl, rfl, rfl, rfl, rfl, rfl, rfl,
    operand_resetEvent _, statusWord_resetEvent _, rfl, rfl⟩
  simp

/-! ### `KEYVALID` stays 1 until reset (R322) -/

/-- A write transaction leaves `KEYVALID`. -/
theorem hostWrite32_keyValid (addr d : Word) (s : State) : (hostWrite32 addr d s).keyValid = s.keyValid := by
  rw [hostWrite32, recordAnswer_keyValid]
  rcases portWrite_cases s addr d with heq | ⟨-, heq | ⟨r, heq⟩ | ⟨off, -, heq⟩⟩ <;> simp [heq]

/-- A command's completion never takes the key away: KEYEXP sets `KEYVALID`, every other end leaves it. -/
theorem exec_keeps_key {i : Instr} {s t : State} (hkey : s.keyValid = true) (h : exec i s = .next t) :
    t.keyValid = true := by
  rcases exec_cases i s with ⟨tt, -, -, heq⟩ | ⟨tl, -, -, -, heq⟩ | ⟨e, heq⟩ | ⟨m, heq, -⟩ <;>
    simp only [heq, raise_next, succeed_next] at h <;> subst h
  · rfl
  all_goals exact hkey

/-- The Core's turn never takes the key away. -/
theorem coreStep_keeps_key {s t : State} (hkey : s.keyValid = true) (h : coreStep s = .next t) :
    t.keyValid = true := by
  rcases coreStep_cases s with ⟨-, heq⟩ | ⟨-, -, heq⟩ | ⟨-, i, -, heq⟩ <;> rw [heq] at h
  · cases h
    exact hkey
  · simpa [(raise_next ..).mp h] using hkey
  · exact exec_keeps_key hkey h

/-- Settles O40: neither the Core's turn nor a transaction takes the key away. -/
theorem onlyResetClearsKeyValid : Obligations.OnlyResetClearsKeyValid := by
  intro s t hkey h hclear
  have hlost : ¬ t.keyValid = true := Bool.eq_false_iff.mp hclear
  rcases step_cases s with ⟨-, heq⟩ | ⟨rest, -, heq⟩ | ⟨addr, d, rest, -, heq⟩ | ⟨addr, rest, -, heq⟩ |
    ⟨rest, hreset, -⟩
  · exact absurd (coreStep_keeps_key hkey (heq.symm.trans h)) hlost
  · exact absurd (coreStep_keeps_key (by exact hkey) (heq.symm.trans h)) hlost
  · cases heq.symm.trans h
    rw [hostWrite32_keyValid] at hlost
    exact absurd hkey hlost
  · cases heq.symm.trans h
    exact absurd hkey hlost
  · exact ⟨rest, hreset⟩

end Sys2Proof.Machine
end
